-- ==== Sys2Proof/Word.lean ====
section
/-! DEFINITION. The widths of the frame protocol engine: an 8-bit byte numbered 7 down to 0, its 4-bit
nibbles (R10), and the 32-bit command word (R69). -/

namespace Sys2Proof

/-- A byte: 8 bits, bit 7 the most significant (R10). A character code is a byte too (R11). -/
abbrev Byte := BitVec 8

/-- Half a byte: the value of one hex digit, or the high or low nibble of a byte (R10, R66). -/
abbrev Nibble := BitVec 4

/-- A command word (R69). -/
abbrev Word := BitVec 32

end Sys2Proof
end

