-- ==== Sys2Proof/Config.lean ====
section
/-! DEFINITION. What one instantiation of the engine and its host fixes (R6 to R9), and the values that
the spec leaves to the outside world: free draws, which are opaque constants, so that nothing proved can
rest on one of them. -/

namespace Sys2Proof

/-- FrameType of the source (R7, R15). -/
inductive FrameType where
  | standard
  | extended
deriving DecidableEq, Repr

/-- Mode of the source: the CAN controller's operating mode (R7). -/
inductive BusMode where
  | normal
  | loopback
  | silent
  | loopbackSilent
deriving DecidableEq, Repr

/-- The OPEN maps of R7 as plain data: `SPEED_CODE` as a list of bitrate and code, `MODE_CODE` and
`FTYPE_CODE` as one code for each name. -/
structure CodeTables where
  speed : List (Nat × Byte)
  normal : Byte
  loopback : Byte
  silent : Byte
  loopbackSilent : Byte
  standard : Byte
  extended : Byte
deriving DecidableEq, Repr

/-- The instantiation parameters: fixed when the block is instantiated and changed by nothing (R6, R8,
R27). `seqMax = none` is an instance that bounds no operand. -/
structure Params where
  maxLen : Nat
  seqMax : Option Nat
  codes : CodeTables
deriving DecidableEq, Repr

/-- What the transport answers to `write(bytes)`: a count or an error (R212). -/
inductive WriteResult where
  | count (n : Nat)
  | error
deriving DecidableEq, Repr, Inhabited

namespace Config

/-- `MAX_LEN` in the reference use (R6). -/
def maxLenReference : Nat := 32

/-- `HEX_MAX_LEN_REF`: the `max_len` the host passes to HEXPL on the injection path (R9, D25). -/
def hexMaxLenReference : Byte := 8

/-- The non-normative table G2 of spec/93_implementation_defined.md.
PRESUMED (log entry 5): a value of the OPEN parameters of R7, not a fact of the source. Unsafe to rely on. -/
def generalKnowledgeCodes : CodeTables where
  speed := [(1000000, 0x01), (800000, 0x02), (500000, 0x03), (400000, 0x04), (250000, 0x05), (200000, 0x06),
    (125000, 0x07), (100000, 0x08), (50000, 0x09), (20000, 0x0A), (10000, 0x0B), (5000, 0x0C)]
  normal := 0x00
  loopback := 0x01
  silent := 0x02
  loopbackSilent := 0x03
  standard := 0x01
  extended := 0x02

/-! Free draws (R212, R218, R221, R242; log entries 6 and 9): each is applied to the counter of draws that
the state holds, and has no body. Safe: a claim holds whatever they are. -/

/-- What the transport's n-th unscheduled read returns: no byte or one byte (R212). -/
opaque transportRead : Nat → Option Byte

/-- What the transport's n-th unscheduled write returns (R212). -/
opaque transportWrite : Nat → WriteResult

/-- Whether the n-th unscheduled `open(path, baud_rate)` succeeds (R212). -/
opaque transportOpens : Nat → Bool

/-- A byte of Random payload mode (R218). -/
opaque randomByte : Nat → Byte

/-- A timestamp at receipt (R221). -/
opaque timestamp : Nat → Nat

/-- Whether the external signal handler has set the flag by the n-th unscheduled check (R213). -/
opaque signalled : Nat → Bool

/-- The content of the assembler buffer before the first reset: unspecified (R242). -/
opaque powerOnBuffer : List Byte

end Config

end Sys2Proof
end

