-- ==== Sys2Proof/Syntax.lean ====
section
/-! DEFINITION. Requests, instructions and responses as data (spec/30_encoding.md Part B). -/

namespace Sys2Proof

/-- A request: a command word and one byte sequence, which may be empty (R69). -/
structure Request where
  w : Word
  seq : List Byte
deriving DecidableEq, Repr

/-- The nine operations of R71. -/
inductive Op where
  | cksum
  | hexid
  | hexpl
  | asmByte
  | asmEmpty
  | asmCancel
  | cfgbld
  | datbld
  | datdec
deriving DecidableEq, Repr

/-- The operand formats of R70. -/
inductive Format where
  | none
  | sequence
  | sequenceCount
  | byte
  | configuration
  | data
deriving DecidableEq, Repr

/-- The instructions: one constructor for each row of spec/opcode_table.json, its operands already
extracted from the request (R70, R71, R78). -/
inductive Instr where
  /-- CKSUM: checksum of a byte sequence (R100). -/
  | cksum (bytes : List Byte)
  /-- HEXID: identifier string to `(lsb, msb)` (R111). -/
  | hexid (str : List Byte)
  /-- HEXPL: payload string to at most `maxLen` bytes (R114). -/
  | hexpl (maxLen : Byte) (str : List Byte)
  /-- ASM_BYTE: one received byte (R133). -/
  | asmByte (x : Byte)
  /-- ASM_EMPTY: the transport had no byte (R137). -/
  | asmEmpty
  /-- ASM_CANCEL: leave the reception cycle (R138). -/
  | asmCancel
  /-- CFGBLD: build a configuration frame (R160). -/
  | cfgbld (speed ftype mode : Byte)
  /-- DATBLD: build a data frame (R163). -/
  | datbld (ext : Bool) (idMsb idLsb : Byte) (payload : List Byte)
  /-- DATDEC: classify and decode a received frame (R166). -/
  | datdec (raw : List Byte)
deriving DecidableEq, Repr

/-- Which operation an instruction is. -/
def Instr.op : Instr → Op
  | .cksum _ => .cksum
  | .hexid _ => .hexid
  | .hexpl _ _ => .hexpl
  | .asmByte _ => .asmByte
  | .asmEmpty => .asmEmpty
  | .asmCancel => .asmCancel
  | .cfgbld _ _ _ => .cfgbld
  | .datbld _ _ _ _ => .datbld
  | .datdec _ => .datdec

/-- The statuses of R75 that are ever returned; the reserved codes 0x8 to 0xE name none. -/
inductive Status where
  | ok
  | frame
  | pending
  | cancelled
  | frameOverflow
  | invalidIdentifier
  | payloadTooLong
  | notADataFrame
  | illegalOp
deriving DecidableEq, Repr

/-- The `class` field of DATDEC (R74, R169); the value 3 names none. -/
inductive FrameClass where
  | data
  | command
  | unknown
deriving DecidableEq, Repr

/-- The fields DATDEC returns with status OK, `class` first (R74, R166, R167). -/
structure DataFields where
  cls : FrameClass
  idLsb : Byte
  idMsb : Byte
  id : BitVec 16
  ext : Bool
  dlc : Nibble
  payload : List Byte
  disp : List Byte
deriving DecidableEq, Repr

/-- The result fields of a response (R74). -/
inductive Results where
  /-- no field -/
  | nothing
  /-- CKSUM: `c` -/
  | sum (c : Byte)
  /-- HEXID: `lsb`, `msb` -/
  | identifier (lsb msb : Byte)
  /-- HEXPL: `out`, `trunc` -/
  | bytes (out : List Byte) (trunc : Bool)
  /-- ASM_BYTE, CFGBLD, DATBLD: `frame` -/
  | frame (f : List Byte)
  /-- DATDEC with OK: `class` and the decoded fields -/
  | decoded (d : DataFields)
  /-- DATDEC with NOT_A_DATA_FRAME: `class` alone -/
  | classified (c : FrameClass)
deriving DecidableEq, Repr

/-- A response: a status and the result fields (R74). -/
structure Response where
  status : Status
  results : Results
deriving DecidableEq, Repr

end Sys2Proof
end

