-- ==== Sys2Proof/WellFormed.lean ====
section
/-! DEFINITION. Which parameters and which instructions are well formed: an instance with `MAX_LEN >= 1`
and a bitrate table inside the source's range (R6, R7), and operands within the instance's `SEQ_MAX` (R8).
Every other operand field is any value of its width (R70). -/

namespace Sys2Proof

/-- `MAX_LEN >= 1`, and every bitrate with a code lies in the source's set, "1,000,000 down to 5,000"
(R6, R7). -/
def Params.wellFormed (p : Params) : Bool :=
  1 ≤ p.maxLen && p.codes.speed.all (fun e => 5000 ≤ e.1 && e.1 ≤ 1000000)

/-- A sequence operand within `SEQ_MAX` (R8). -/
def withinBound (seqMax : Option Nat) (seq : List Byte) : Bool :=
  match seqMax with
  | none => true
  | some n => seq.length ≤ n

/-- An instruction that an instance with this `SEQ_MAX` accepts: the bound is on the checksum input, the hex
strings and the decoder's input. DATBLD's payload is not subject to it (R8, R165). -/
def Instr.wellFormed (seqMax : Option Nat) : Instr → Bool
  | .cksum bytes => withinBound seqMax bytes
  | .hexid str => withinBound seqMax str
  | .hexpl _ str => withinBound seqMax str
  | .asmByte _ => true
  | .asmEmpty => true
  | .asmCancel => true
  | .cfgbld _ _ _ => true
  | .datbld _ _ _ _ => true
  | .datdec raw => withinBound seqMax raw

end Sys2Proof
end

