-- ==== Sys2Proof/Decode.lean ====
section
/-! DEFINITION. Decoding a request to an instruction or a named rejection (R70 to R73), and after it the
encoder, written from the same tables. -/

namespace Sys2Proof

/-- Why a request is no instruction. Every reason gets the same response, ILLEGAL_OP (R72, R73, R202). -/
inductive DecodeError where
  /-- `op` is not in R71 (R73). -/
  | unassignedOp
  /-- A reserved bit of `W` is set (R72). -/
  | reservedBits
  /-- A format N, B or C operation came with a non-empty `SEQ` (R72). -/
  | sequenceNotTaken
deriving DecidableEq, Repr

/-- The operation-code map of R71. -/
def Op.code : Op → Byte
  | .cksum => 0x01
  | .hexid => 0x02
  | .hexpl => 0x03
  | .asmByte => 0x10
  | .asmEmpty => 0x11
  | .asmCancel => 0x12
  | .cfgbld => 0x20
  | .datbld => 0x21
  | .datdec => 0x22

/-- The operation with a given code; every code not listed is unassigned (R71, R73). -/
def Op.ofCode (c : Byte) : Option Op :=
  if c = 0x01 then some .cksum
  else if c = 0x02 then some .hexid
  else if c = 0x03 then some .hexpl
  else if c = 0x10 then some .asmByte
  else if c = 0x11 then some .asmEmpty
  else if c = 0x12 then some .asmCancel
  else if c = 0x20 then some .cfgbld
  else if c = 0x21 then some .datbld
  else if c = 0x22 then some .datdec
  else none

/-- The operand format of an operation (R71). -/
def Op.format : Op → Format
  | .cksum => .sequence
  | .hexid => .sequence
  | .hexpl => .sequenceCount
  | .asmByte => .byte
  | .asmEmpty => .none
  | .asmCancel => .none
  | .cfgbld => .configuration
  | .datbld => .data
  | .datdec => .sequence

/-! The fields of a command word (R69, R70). -/

/-- `W[31:24]`, the operation code. -/
def opField (w : Word) : Byte := w.extractLsb' 24 8

/-- `W[23:16]`. -/
def byte2 (w : Word) : Byte := w.extractLsb' 16 8

/-- `W[15:8]`. -/
def byte1 (w : Word) : Byte := w.extractLsb' 8 8

/-- `W[7:0]`. -/
def byte0 (w : Word) : Byte := w.extractLsb' 0 8

/-- `W[16]`, the extended bit of format D. -/
def extField (w : Word) : Bool := w.extractLsb' 16 1 == 1

/-- Whether the reserved bits of a format are zero (R70, R72). Format C has none. -/
def Format.reservedClear (w : Word) : Format → Bool
  | .none => w.extractLsb' 0 24 == 0
  | .sequence => w.extractLsb' 0 24 == 0
  | .sequenceCount => w.extractLsb' 8 16 == 0
  | .byte => w.extractLsb' 8 16 == 0
  | .configuration => true
  | .data => w.extractLsb' 17 7 == 0

/-- Whether a format takes a sequence operand (R70). -/
def Format.takesSequence : Format → Bool
  | .none => false
  | .sequence => true
  | .sequenceCount => true
  | .byte => false
  | .configuration => false
  | .data => true

/-- The operands of an accepted request, extracted by its operation's format (R70). -/
def operandsOf (w : Word) (seq : List Byte) : Op → Instr
  | .cksum => .cksum seq
  | .hexid => .hexid seq
  | .hexpl => .hexpl (byte0 w) seq
  | .asmByte => .asmByte (byte0 w)
  | .asmEmpty => .asmEmpty
  | .asmCancel => .asmCancel
  | .cfgbld => .cfgbld (byte2 w) (byte1 w) (byte0 w)
  | .datbld => .datbld (extField w) (byte1 w) (byte0 w) seq
  | .datdec => .datdec seq

/-- Decoding: unassigned operation first, then reserved bits, then a sequence that is not taken (R202). -/
def decode (r : Request) : Except DecodeError Instr :=
  match Op.ofCode (opField r.w) with
  | none => .error .unassignedOp
  | some op =>
    if op.format.reservedClear r.w then
      if op.format.takesSequence || r.seq.isEmpty then .ok (operandsOf r.w r.seq op)
      else .error .sequenceNotTaken
    else .error .reservedBits

/-! The encoder (R69 to R71). -/

/-- A command word from its four bytes, the operation code first. -/
def wordOf (op b2 b1 b0 : Byte) : Word := (op ++ b2 ++ b1 ++ b0 : BitVec (8 + 8 + 8 + 8))

/-- The request that stands for an instruction. -/
def encode : Instr → Request
  | .cksum bytes => ⟨wordOf Op.cksum.code 0 0 0, bytes⟩
  | .hexid str => ⟨wordOf Op.hexid.code 0 0 0, str⟩
  | .hexpl maxLen str => ⟨wordOf Op.hexpl.code 0 0 maxLen, str⟩
  | .asmByte x => ⟨wordOf Op.asmByte.code 0 0 x, []⟩
  | .asmEmpty => ⟨wordOf Op.asmEmpty.code 0 0 0, []⟩
  | .asmCancel => ⟨wordOf Op.asmCancel.code 0 0 0, []⟩
  | .cfgbld speed ftype mode => ⟨wordOf Op.cfgbld.code speed ftype mode, []⟩
  | .datbld ext idMsb idLsb payload => ⟨wordOf Op.datbld.code (if ext then 1 else 0) idMsb idLsb, payload⟩
  | .datdec raw => ⟨wordOf Op.datdec.code 0 0 0, raw⟩

/-- The request a row of the opcode table is read as: the low `nbits` bits of `w` as the command word and an
empty sequence, which the table gives no bits (log entry 2). -/
def requestOfTableWord (nbits w : Nat) : Request := ⟨BitVec.ofNat 32 (w % 2 ^ nbits), []⟩

/-- The instruction the decoder reads from a table word, or none where it rejects. -/
def decodeTableWord (nbits w : Nat) : Option Instr :=
  match decode (requestOfTableWord nbits w) with
  | .ok i => some i
  | .error _ => none

end Sys2Proof
end

