-- ==== Sys2Proof/Machine/State.lean ====
section
/-! DEFINITION. The state: the block's one register `ASM.buf` (R20), the request and response port through
which the host drives it (R5, R69, R74), and the host model's record (R32) with what it reads from and
writes to its environment (R211 to R224). Plain data throughout. -/

namespace Sys2Proof.Machine

/-- Why the machine stops with a fault. No request of the block raises one: every error of the block is a
status in its response (R200). -/
inductive Fault where
  /-- Raised by the host model where it holds a response for which its procedure has no case (R214, R217,
  R221, R222 name the responses each place expects). Safe: no run from reset reaches it; see Safety. -/
  | unexpectedResponse
deriving DecidableEq, Repr

/-- Why the machine refuses. -/
inductive Refusal where
  /-- Raised by `exec` for an instruction that has no meaning yet. No arm of this model raises it. Safe. -/
  | notModelled (mnemonic : String)
  /-- Raised by `step` for any request before the first reset (R242). Safe: the spec refuses it. -/
  | beforeFirstReset
  /-- Raised by `step` on an instance with `MAX_LEN = 0`, a configuration that a model refuses (R6). Safe. -/
  | maxLenZero
deriving DecidableEq, Repr

/-- The interface between host and block: one request at a time, answered by exactly one response, which
the host takes before it issues the next (R5, R209, R211, R245). -/
inductive Port where
  | idle
  | request (r : Request)
  | response (r : Response)
deriving DecidableEq, Repr

/-- The payload mode `inj.mode` (R15, R32, R218). -/
inductive PayloadMode where
  | random
  | incremental
  | fixed
deriving DecidableEq, Repr

/-- The Injection Loop's variables (R32). -/
structure Injection where
  payload : List Byte
  mode : PayloadMode
  intervalMs : Nat
  ext : Bool
  idLsb : Byte
  idMsb : Byte
deriving DecidableEq, Repr

/-- The Dump Loop's variables (R32, R224). -/
structure Dump where
  count : Nat
  limit : Option Nat
deriving DecidableEq, Repr

/-- The inputs of a run that injects: the identifier and payload strings (R216), the payload mode and the pacing
interval (R217). The `max_len` of HEXPL is no input: it is `HEX_MAX_LEN_REF` (R9). -/
structure InjectInputs where
  identifier : List Byte
  payload : List Byte
  mode : PayloadMode
  intervalMs : Nat
deriving DecidableEq, Repr

/-- `run_mode` with its arguments: exactly one of the two loops (R214, R244). -/
inductive RunMode where
  | inject (g : InjectInputs)
  | dump (limit : Option Nat)
deriving DecidableEq, Repr

/-- The arguments of START (R214). -/
structure RunInputs where
  path : List Byte
  baud : Nat
  bitrate : Nat
  ftype : FrameType
  busMode : BusMode
  mode : RunMode
deriving DecidableEq, Repr

/-- How a run ends (R201, R214 to R224). -/
inductive RunEnd where
  /-- "unmapped bitrate" (R215) -/
  | invalidSpeed
  /-- HEXID answered INVALID_IDENTIFIER (R216) -/
  | invalidIdentifier
  /-- HEXPL gave no byte, or more than 8 (R216) -/
  | invalidPayload
  /-- HEXID or HEXPL answered ILLEGAL_OP, a string beyond `SEQ_MAX` (R8, R225; log entry 12) -/
  | operandRefused
  /-- `open` returned an error (R214) -/
  | transportOpenFailed
  /-- a write returned an error or a short count (R214, R219, R220) -/
  | transportWriteFailed
  /-- the cancellation flag was observed (R217, R221) -/
  | stopped
  /-- the Dump Loop reached its limit (R221, R224) -/
  | limitReached
deriving DecidableEq, Repr

/-- Where the host stands in its procedures. A phase whose name begins with `await` waits for the response to
the request it issued (R211). -/
inductive Phase where
  /-- the host of R211 that issues the actions of its script -/
  | scripted
  /-- START: reset the block and set up the run (R213, R243) -/
  | start (a : RunInputs)
  /-- START: look the bitrate up (R215) -/
  | lookUpSpeed (a : RunInputs)
  /-- START: HEXID issued (R216) -/
  | awaitIdentifier (a : RunInputs) (g : InjectInputs) (speed : Byte)
  /-- START: HEXPL issued (R216) -/
  | awaitPayload (a : RunInputs) (g : InjectInputs) (speed : Byte)
  /-- START: open the transport (R214) -/
  | openTransport (a : RunInputs) (speed : Byte)
  /-- START: CFGBLD issued (R214) -/
  | awaitConfiguration (m : RunMode)
  /-- INJECT: the top of an iteration (R217) -/
  | injectTop
  /-- INJECT: the pacing sleep (R217) -/
  | injectSleep
  /-- INJECT: mutate the payload and build the frame (R217, R218) -/
  | injectBuild
  /-- INJECT: DATBLD issued (R217) -/
  | awaitDataFrame
  /-- DUMP: the top of an iteration (R221) -/
  | dumpTop
  /-- RECEIVE: the top of an iteration (R222) -/
  | receiveTop
  /-- RECEIVE: the wait after an empty read (R222) -/
  | pollWait
  /-- RECEIVE: ASM_CANCEL issued (R222) -/
  | awaitCancelled
  /-- RECEIVE: ASM_EMPTY issued (R222) -/
  | awaitEmpty
  /-- RECEIVE: ASM_BYTE issued (R222) -/
  | awaitByte
  /-- DUMP: DATDEC of the received frame issued (R221) -/
  | awaitDecoded (raw : List Byte) (t : Nat)
  /-- the run is over -/
  | ended (e : RunEnd)
deriving DecidableEq, Repr

/-- What a scripted host does between requests: apply reset, or issue a request (R211, R240, R243). -/
inductive HostAction where
  | reset
  | request (r : Request)
deriving DecidableEq, Repr

/-- What the host records for its user (R216, R221, R223; the text format is not specified). -/
inductive Observation where
  /-- a response taken by the scripted host -/
  | response (r : Response)
  /-- HEXPL reported truncation (R216) -/
  | truncated
  /-- the Dump Loop's receive error (R221) -/
  | receiveError (t : Nat)
  /-- a DATA frame: its class, identifier and display sequence (R223) -/
  | dataFrame (t : Nat) (cls : FrameClass) (id : BitVec 16) (disp : List Byte)
  /-- anything else: the class, if DATDEC gave one, and the raw bytes in forward order (R223) -/
  | unknownFrame (t : Nat) (cls : Option FrameClass) (raw : List Byte)
deriving DecidableEq, Repr

/-- What the host has done to the transport: the device it opened, and every `write` with its answer, in
order (R42, R212). -/
structure Link where
  opened : Option (List Byte × Nat)
  writes : List (List Byte × WriteResult)
deriving DecidableEq, Repr

/-- The environment's next answers, scheduled from outside. Where a list has run out the answer is a free
draw of `Config`, applied to `draws` (R212, R213, R218, R221; log entry 9). The model's own field, not the
spec's. -/
structure Environment where
  reads : List (Option Byte)
  writes : List WriteResult
  opens : List Bool
  randoms : List Byte
  stamps : List Nat
  signals : List Bool
  draws : Nat
deriving DecidableEq, Repr

/-- The machine: parameters, block, port, host and environment. -/
structure State where
  /-- the instantiation parameters (R6 to R8) -/
  params : Params
  /-- whether the block has been reset since power-on (R242) -/
  wasReset : Bool
  /-- `ASM.buf` (R20, R21) -/
  asmBuf : List Byte
  /-- the request or response between host and block (R5) -/
  port : Port
  /-- the cancellation flag (R32, R213) -/
  cancel : Bool
  /-- the Injection Loop's variables (R32) -/
  inj : Injection
  /-- the Dump Loop's variables (R32) -/
  dump : Dump
  /-- where the host stands (R214, R217, R221, R222) -/
  phase : Phase
  /-- what a scripted host has still to do (R211) -/
  script : List HostAction
  /-- what the host has recorded, oldest first (R223) -/
  seen : List Observation
  /-- what the host has done to the transport (R212) -/
  link : Link
  /-- the environment's answers -/
  env : Environment
deriving DecidableEq, Repr

/-- The machine right after reset: `ASM.buf = []` (R240, R241), no request in progress, the flag false and the
count 0 (R213, R241). The parameters are the reference instance's (R6; log entries 3 to 5), and no run has
been given to the host, so the run's inputs hold the values of log entry 8. -/
def State.reset : State where
  params := ⟨Config.maxLenReference, none, Config.generalKnowledgeCodes⟩
  wasReset := true
  asmBuf := []
  port := .idle
  cancel := false
  inj := ⟨[], .fixed, 0, false, 0, 0⟩
  dump := ⟨0, none⟩
  phase := .scripted
  script := []
  seen := []
  link := ⟨none, []⟩
  env := ⟨[], [], [], [], [], [], 0⟩

/-- The machine at power-on, before the first reset: `ASM.buf` is unspecified, a free value (R242). -/
def State.powerOn : State :=
  { State.reset with wasReset := false, asmBuf := Config.powerOnBuffer }

end Sys2Proof.Machine
end

