-- ==== Sys2Proof/Machine/Flags.lean ====
section
/-! DEFINITION. The block has no flags and no condition codes (R26). What stands in their place is the status
of a response and the one-bit result fields; their codes and their conditions are here. -/

namespace Sys2Proof.Machine

/-- The 4-bit status codes of R75. -/
def statusCode : Status → BitVec 4
  | .ok => 0x0
  | .frame => 0x1
  | .pending => 0x2
  | .cancelled => 0x3
  | .frameOverflow => 0x4
  | .invalidIdentifier => 0x5
  | .payloadTooLong => 0x6
  | .notADataFrame => 0x7
  | .illegalOp => 0xF

/-- The 2-bit `class` codes of R74. -/
def classCode : FrameClass → BitVec 2
  | .data => 0
  | .command => 1
  | .unknown => 2

/-- `trunc` of HEXPL: more than `2 * max_len` hex digits in the string (R116). -/
def truncFlag (digits : List Nibble) (maxLen : Byte) : Bool := 2 * maxLen.toNat < digits.length

/-- `ext` of DATDEC: bit 5 of the info byte (R167). -/
def extFlag (info : Byte) : Bool := info.getLsbD 5

end Sys2Proof.Machine
end

