-- ==== Sys2Proof/Machine/Operands.lean ====
section
/-! DEFINITION. The operand forms of the block: nibbles and slices (R10, R11), the hex digits of a character
string (R66, R110), and the bound of an instance on a sequence operand (R8). -/

namespace Sys2Proof.Machine

/-- `v[7:4]` (R10). -/
def highNibble (v : Byte) : Nibble := v.extractLsb' 4 4

/-- `v[3:0]` (R10). -/
def lowNibble (v : Byte) : Nibble := v.extractLsb' 0 4

/-- `s[a..b]`: elements `a` through `b` inclusive, `[]` when `b < a` (R11). -/
def slice (a b : Nat) (s : List Byte) : List Byte := (s.take (b + 1)).drop a

/-- `hexval`, defined only on the three ranges of R66: a partial function, as R110 allows. -/
def hexval (ch : Byte) : Option Nibble :=
  if 0x30 ≤ ch.toNat ∧ ch.toNat ≤ 0x39 then some (BitVec.ofNat 4 (ch.toNat - 0x30))
  else if 0x41 ≤ ch.toNat ∧ ch.toNat ≤ 0x46 then some (BitVec.ofNat 4 (ch.toNat - 0x41 + 10))
  else if 0x61 ≤ ch.toNat ∧ ch.toNat ≤ 0x66 then some (BitVec.ofNat 4 (ch.toNat - 0x61 + 10))
  else none

/-- `ishex` (R110). -/
def ishex (ch : Byte) : Bool := (hexval ch).isSome

/-- The hex digits of a string in scan order; every other character is ignored (R115). -/
def hexDigits (str : List Byte) : List Nibble := str.filterMap hexval

/-- A byte from two digits: `hi * 16 + lo`, the first digit the high nibble (R45). -/
def byteOfDigits (hi lo : Nibble) : Byte := BitVec.ofNat 8 (hi.toNat * 16 + lo.toNat)

/-- Consecutive digits paired into bytes; a final unpaired digit is dropped (R115). -/
def pairDigits : List Nibble → List Byte
  | hi :: lo :: rest => byteOfDigits hi lo :: pairDigits rest
  | _ => []

/-- Whether the instance takes this sequence operand: longer operands than `SEQ_MAX` are refused (R8). -/
def State.takes (s : State) (seq : List Byte) : Bool :=
  match s.params.seqMax with
  | none => true
  | some n => seq.length ≤ n

end Sys2Proof.Machine
end

