-- ==== Sys2Proof/Machine/Ops.lean ====
section
/-! DEFINITION. The named operations on the state: answering a request, raising an error, writing `ASM.buf`,
reset, the host's moves on the port, and the environment's answers. -/

namespace Sys2Proof.Machine

/-! ## The block -/

/-- `respond(STATUS, field = value, …)`: the request ends with one response (R12, R49). -/
def State.respond (s : State) (st : Status) (res : Results) : State :=
  { s with port := .response ⟨st, res⟩ }

/-- `raise E(info)`: the one way an error is taken. It is `respond(E, info)` and nothing else: no state is saved,
no mode changes and control goes nowhere (R12, R200, R205). There is nothing to return from. -/
def State.raise (s : State) (e : Status) (info : Results := .nothing) : State := s.respond e info

/-- `ASM.buf <- v`, the block's only state write (R12). -/
def State.setBuf (s : State) (b : List Byte) : State := { s with asmBuf := b }

/-- Reset: `ASM.buf <- []`, and no response (R240). -/
def State.applyReset (s : State) : State := { s with asmBuf := [], wasReset := true }

/-! ## The host's moves -/

/-- The host puts a request on the port (R5). -/
def State.issue (s : State) (r : Request) : State := { s with port := .request r }

/-- The host issues an instruction in its encoded form (R69 to R71) and waits in a phase (R211). -/
def State.call (s : State) (i : Instr) (p : Phase) : State := { s with port := .request (encode i), phase := p }

/-- The host has taken the response, and the port is free again (R211). -/
def State.take (s : State) : State := { s with port := .idle }

/-- The host goes on to another phase. -/
def State.goTo (s : State) (p : Phase) : State := { s with phase := p }

/-- The host records an observation (R223). -/
def State.observe (s : State) (o : Observation) : State := { s with seen := s.seen ++ [o] }

/-! ## The environment's answers -/

/-- The next answer: the first scheduled one, or a free draw where none is scheduled. The rest of the list and
the new draw counter come with it. -/
def draw {α : Type} (scheduled : List α) (free : Nat → α) (n : Nat) : α × List α × Nat :=
  match scheduled with
  | a :: rest => (a, rest, n)
  | [] => (free n, [], n + 1)

/-- `read_nonblocking()`: no byte or one byte, never an error (R212). -/
def State.readTransport (s : State) : Option Byte × State :=
  let d := draw s.env.reads Config.transportRead s.env.draws
  (d.1, { s with env := { s.env with reads := d.2.1, draws := d.2.2 } })

/-- `write(bytes)`: the answer, and the write recorded (R42, R212). -/
def State.writeTransport (s : State) (f : List Byte) : WriteResult × State :=
  let d := draw s.env.writes Config.transportWrite s.env.draws
  (d.1, { s with
    env := { s.env with writes := d.2.1, draws := d.2.2 }
    link := { s.link with writes := s.link.writes ++ [(f, d.1)] } })

/-- `open(path, baud_rate)`: whether it succeeded, and the device recorded where it did (R212). -/
def State.openTransport (s : State) (path : List Byte) (baud : Nat) : Bool × State :=
  let d := draw s.env.opens Config.transportOpens s.env.draws
  (d.1, { s with
    env := { s.env with opens := d.2.1, draws := d.2.2 }
    link := { s.link with opened := if d.1 then some (path, baud) else s.link.opened } })

/-- One freely drawn byte of Random payload mode (R218). -/
def State.drawByte (s : State) : Byte × State :=
  let d := draw s.env.randoms Config.randomByte s.env.draws
  (d.1, { s with env := { s.env with randoms := d.2.1, draws := d.2.2 } })

/-- `draw_byte()` for each of `n` bytes, each its own draw (R218). -/
def State.drawBytes (s : State) : Nat → List Byte × State
  | 0 => ([], s)
  | n + 1 =>
    let b := s.drawByte
    let rest := b.2.drawBytes n
    (b.1 :: rest.1, rest.2)

/-- `timestamp()` (R221). -/
def State.stamp (s : State) : Nat × State :=
  let d := draw s.env.stamps Config.timestamp s.env.draws
  (d.1, { s with env := { s.env with stamps := d.2.1, draws := d.2.2 } })

/-- The host's check of the cancellation flag: what the signal handler has set by now is seen here, and a flag
that is set stays set (R53, R213). -/
def State.checkCancel (s : State) : State :=
  let d := draw s.env.signals Config.signalled s.env.draws
  { s with cancel := s.cancel || d.1, env := { s.env with signals := d.2.1, draws := d.2.2 } }

end Sys2Proof.Machine
end

