-- ==== Sys2Proof/Machine/HostModel.lean ====
section
/-! DEFINITION. The host model: start-up, the Injection Loop, the Dump Loop and the reception cycle of
spec/60_exceptions.md Part C, cut where the host waits for the block, for the clock, or checks the flag. One
definition for each place the host can stand. -/

namespace Sys2Proof.Machine

/-! ## The maps and small functions of the host -/

/-- `SPEED_CODE(bitrate)`, undefined for an unmapped bitrate (R7, R215). -/
def speedCode (c : CodeTables) (bitrate : Nat) : Option Byte := c.speed.lookup bitrate

/-- `MODE_CODE(mode)` (R7). -/
def modeCode (c : CodeTables) : BusMode → Byte
  | .normal => c.normal
  | .loopback => c.loopback
  | .silent => c.silent
  | .loopbackSilent => c.loopbackSilent

/-- `FTYPE_CODE(frame type)` (R7, R65). -/
def ftypeCode (c : CodeTables) : FrameType → Byte
  | .standard => c.standard
  | .extended => c.extended

/-- The extended flag of data frames for a frame type (R65; log entry 13). -/
def extOf : FrameType → Bool
  | .standard => false
  | .extended => true

/-- `mutate(mode, p)`, each byte on its own and the length unchanged (R218). -/
def mutate (s : State) : PayloadMode → List Byte → List Byte × State
  | .fixed, p => (p, s)
  | .incremental, p => (p.map (· + 1), s)
  | .random, p => s.drawBytes p.length

/-- A write succeeded when its count is not short of the frame (R220). -/
def wroteWhole (f : List Byte) : WriteResult → Bool
  | .error => false
  | .count n => f.length ≤ n

/-- Whether the optional frame-count limit is reached (R221, R224). -/
def limitReached (d : Dump) : Bool :=
  match d.limit with
  | none => false
  | some l => l ≤ d.count

/-! ## Moves with no response to take -/

/-- START: the block is reset before its first request (R243), the flag is false and the count 0 (R213, R241). -/
def hostStart (a : RunInputs) (s : State) : State :=
  let limit := match a.mode with
    | .inject _ => none
    | .dump l => l
  { s.applyReset with cancel := false, dump := ⟨0, limit⟩, phase := .lookUpSpeed a }

/-- START: an unmapped bitrate ends the run before anything else is done (R214, R215); an injecting run goes on
to validate its strings (R216). -/
def hostLookUpSpeed (a : RunInputs) (s : State) : State :=
  match speedCode s.params.codes a.bitrate with
  | none => s.goTo (.ended .invalidSpeed)
  | some speed =>
    match a.mode with
    | .inject g => s.call (.hexid g.identifier) (.awaitIdentifier a g speed)
    | .dump _ => s.goTo (.openTransport a speed)

/-- START: open the transport, then CFGBLD (R214). -/
def hostOpen (a : RunInputs) (speed : Byte) (s : State) : State :=
  let o := s.openTransport a.path a.baud
  if o.1 then
    o.2.call (.cfgbld speed (ftypeCode s.params.codes a.ftype) (modeCode s.params.codes a.busMode))
      (.awaitConfiguration a.mode)
  else o.2.goTo (.ended .transportOpenFailed)

/-- INJECT: check the flag, then sleep unless the interval is zero (R217). -/
def hostInjectTop (s : State) : State :=
  let c := s.checkCancel
  if c.cancel then c.goTo (.ended .stopped)
  else if c.inj.intervalMs = 0 then c.goTo .injectBuild
  else c.goTo .injectSleep

/-- INJECT: mutate the payload, then build the frame from the mutated payload (R217). -/
def hostInjectBuild (s : State) : State :=
  let m := mutate s s.inj.mode s.inj.payload
  { m.2 with inj := { s.inj with payload := m.1 } }.call
    (.datbld s.inj.ext s.inj.idMsb s.inj.idLsb m.1) .awaitDataFrame

/-- DUMP: check the flag, then the limit, then receive (R221). -/
def hostDumpTop (s : State) : State :=
  let c := s.checkCancel
  if c.cancel then c.goTo (.ended .stopped)
  else if limitReached c.dump then c.goTo (.ended .limitReached)
  else c.goTo .receiveTop

/-- RECEIVE: check the flag before the transport is read; then one read, forwarded as ASM_BYTE or reported as
ASM_EMPTY (R203, R222). -/
def hostReceiveTop (s : State) : State :=
  let c := s.checkCancel
  if c.cancel then c.call .asmCancel .awaitCancelled
  else
    let r := c.readTransport
    match r.1 with
    | none => r.2.call .asmEmpty .awaitEmpty
    | some x => r.2.call (.asmByte x) .awaitByte

/-- The scripted host's next action; with none left it does nothing (R211). -/
def hostScripted (s : State) : State :=
  match s.script with
  | [] => s
  | .reset :: rest => { s.applyReset with script := rest }
  | .request r :: rest => { s with script := rest }.issue r

/-- The host's move while the port is idle. A host that waits for a response, or whose run is over, does nothing;
the sleep and the poll wait are moves that change nothing but the place (R217, R222, R249). -/
def hostAct (s : State) : State :=
  match s.phase with
  | .scripted => hostScripted s
  | .start a => hostStart a s
  | .lookUpSpeed a => hostLookUpSpeed a s
  | .openTransport a speed => hostOpen a speed s
  | .injectTop => hostInjectTop s
  | .injectSleep => s.goTo .injectBuild
  | .injectBuild => hostInjectBuild s
  | .dumpTop => hostDumpTop s
  | .receiveTop => hostReceiveTop s
  | .pollWait => s.goTo .receiveTop
  | .awaitIdentifier _ _ _ => s
  | .awaitPayload _ _ _ => s
  | .awaitConfiguration _ => s
  | .awaitDataFrame => s
  | .awaitCancelled => s
  | .awaitEmpty => s
  | .awaitByte => s
  | .awaitDecoded _ _ => s
  | .ended _ => s

/-! ## Moves that take a response; none where the procedure has no case for it -/

/-- START: the answer to HEXID; then HEXPL, its `max_len` the 8 of the injection path (R9, R216). -/
def takeIdentifier (a : RunInputs) (g : InjectInputs) (speed : Byte) (r : Response) (s : State) : Option State :=
  match r.results with
  | .nothing =>
    if r.status = .invalidIdentifier then some (s.take.goTo (.ended .invalidIdentifier))
    else if r.status = .illegalOp then some (s.take.goTo (.ended .operandRefused))
    else none
  | .identifier lsb msb =>
    if r.status = .ok then
      some ({ s with inj := ⟨s.inj.payload, g.mode, g.intervalMs, extOf a.ftype, lsb, msb⟩ }.call
        (.hexpl Config.hexMaxLenReference g.payload) (.awaitPayload a g speed))
    else none
  | _ => none

/-- START: the answer to HEXPL. Truncation is reported and is no error; no byte, or more than 8, is (R216). -/
def takePayload (a : RunInputs) (speed : Byte) (r : Response) (s : State) : Option State :=
  match r.results with
  | .nothing => if r.status = .illegalOp then some (s.take.goTo (.ended .operandRefused)) else none
  | .bytes out trunc =>
    if r.status = .ok then
      let t := { s.take with seen := s.seen ++ (if trunc then [Observation.truncated] else []) }
      if out.length = 0 ∨ 8 < out.length then some (t.goTo (.ended .invalidPayload))
      else some ({ t with inj := { s.inj with payload := out } }.goTo (.openTransport a speed))
    else none
  | _ => none

/-- The host writes a frame whole and goes on, or ends with TransportWriteFailed: no retry (R42, R219, R220). -/
def writeFrame (f : List Byte) (p : Phase) (s : State) : State :=
  let w := s.take.writeTransport f
  if wroteWhole f w.1 then w.2.goTo p else w.2.goTo (.ended .transportWriteFailed)

/-- The first place of the loop a run enters after start-up (R214, R244). -/
def loopTop : RunMode → Phase
  | .inject _ => .injectTop
  | .dump _ => .dumpTop

/-- START: the answer to CFGBLD (R214). -/
def takeConfiguration (m : RunMode) (r : Response) (s : State) : Option State :=
  match r.results with
  | .frame f => if r.status = .ok then some (writeFrame f (loopTop m) s) else none
  | _ => none

/-- INJECT: the answer to DATBLD (R217). -/
def takeDataFrame (r : Response) (s : State) : Option State :=
  match r.results with
  | .frame f => if r.status = .ok then some (writeFrame f .injectTop s) else none
  | _ => none

/-- RECEIVE: the answer to ASM_CANCEL. The Dump Loop draws its timestamp after every reception cycle, and returns
STOPPED (R221, R222). -/
def takeCancelled (r : Response) (s : State) : Option State :=
  if r.status = .cancelled then some (s.take.stamp.2.goTo (.ended .stopped)) else none

/-- RECEIVE: the answer to ASM_EMPTY (R222). -/
def takeEmpty (r : Response) (s : State) : Option State :=
  if r.status = .pending then some (s.take.goTo .pollWait) else none

/-- RECEIVE: the answer to ASM_BYTE. PENDING asks for the next byte; an overflow is reported and the Dump Loop
goes on with its count unchanged; a frame is stamped and given to DATDEC (R221, R222, R224). -/
def takeByte (r : Response) (s : State) : Option State :=
  match r.results with
  | .nothing =>
    if r.status = .pending then some (s.take.goTo .receiveTop)
    else if r.status = .frameOverflow then
      some ((s.take.stamp.2.observe (.receiveError s.take.stamp.1)).goTo .dumpTop)
    else none
  | .frame f =>
    if r.status = .frame then some (s.take.stamp.2.call (.datdec f) (.awaitDecoded f s.take.stamp.1)) else none
  | _ => none

/-- What the Dump Loop renders: identifier and display sequence of a data frame, and the raw bytes of anything
that is not recognized as one (R223; log entry 12 for a refused DATDEC). -/
def rendering (raw : List Byte) (t : Nat) (r : Response) : Option Observation :=
  match r.results with
  | .nothing => if r.status = .illegalOp then some (.unknownFrame t none raw) else none
  | .decoded d => if r.status = .ok then some (.dataFrame t d.cls d.id d.disp) else none
  | .classified c => if r.status = .notADataFrame then some (.unknownFrame t (some c) raw) else none
  | _ => none

/-- DUMP: the answer to DATDEC: render, and count the frame whatever its class (R221, R224). -/
def takeDecoded (raw : List Byte) (t : Nat) (r : Response) (s : State) : Option State :=
  match rendering raw t r with
  | some o => some ({ s.take.observe o with dump := { s.dump with count := s.dump.count + 1 } }.goTo .dumpTop)
  | none => none

/-- The host's move when a response is on the port. -/
def hostTake (r : Response) (s : State) : Option State :=
  match s.phase with
  | .scripted => some (s.take.observe (.response r))
  | .awaitIdentifier a g speed => takeIdentifier a g speed r s
  | .awaitPayload a _ speed => takePayload a speed r s
  | .awaitConfiguration m => takeConfiguration m r s
  | .awaitDataFrame => takeDataFrame r s
  | .awaitCancelled => takeCancelled r s
  | .awaitEmpty => takeEmpty r s
  | .awaitByte => takeByte r s
  | .awaitDecoded raw t => takeDecoded raw t r s
  | .start _ => none
  | .lookUpSpeed _ => none
  | .openTransport _ _ => none
  | .injectTop => none
  | .injectSleep => none
  | .injectBuild => none
  | .dumpTop => none
  | .receiveTop => none
  | .pollWait => none
  | .ended _ => none

end Sys2Proof.Machine
end

