-- ==== Sys2Proof/Machine/Assembler.lean ====
section
/-! DEFINITION. The Frame Assembler (spec/42_frame_assembler.md). -/

namespace Sys2Proof.Machine

/-- The completion rule, its five cases in order, with the exception for length codes 9 to 15 (R131, R132). It is
asked of non-empty buffers only. -/
def complete : List Byte → Bool
  | [] => false
  | [b0] => b0 != 0xAA
  | b0 :: b1 :: rest =>
    if b0 ≠ 0xAA then true
    else if b1 = 0x55 then 20 ≤ rest.length + 2
    else if highNibble b1 = 0xC then
      (lowNibble b1).toNat ≤ 8 && (lowNibble b1).toNat + 5 ≤ rest.length + 2
    else true

/-- ASM_BYTE: append, then test completion, then overflow (R134, R135). -/
def execAsmByte (x : Byte) (s : State) : Host.Outcome State Fault Refusal :=
  let b := s.asmBuf ++ [x]
  if complete b then .next ((s.setBuf []).respond .frame (.frame b))
  else if s.params.maxLen ≤ b.length then .next ((s.setBuf []).raise .frameOverflow)
  else .next ((s.setBuf b).respond .pending .nothing)

/-- ASM_EMPTY (R137). -/
def execAsmEmpty (s : State) : Host.Outcome State Fault Refusal :=
  .next (s.respond .pending .nothing)

/-- ASM_CANCEL (R138). -/
def execAsmCancel (s : State) : Host.Outcome State Fault Refusal :=
  .next ((s.setBuf []).respond .cancelled .nothing)

end Sys2Proof.Machine
end

