-- ==== Sys2Proof/Machine/Checksum.lean ====
section
/-! DEFINITION. The Checksum unit (spec/40_checksum.md). -/

namespace Sys2Proof.Machine

/-- The sum of all byte values modulo 256 (R101). -/
def checksum (bytes : List Byte) : Byte := BitVec.ofNat 8 (bytes.map BitVec.toNat).sum

/-- CKSUM (R101, R102). -/
def execCksum (bytes : List Byte) (s : State) : Host.Outcome State Fault Refusal :=
  if s.takes bytes then .next (s.respond .ok (.sum (checksum bytes)))
  else .next (s.raise .illegalOp)

end Sys2Proof.Machine
end

