-- ==== Sys2Proof/Machine/FrameCodec.lean ====
section
/-! DEFINITION. The Frame Codec (spec/43_frame_codec.md). -/

namespace Sys2Proof.Machine

/-- The 20-byte configuration frame: 8 reserved bytes after the frame type and 4 before the checksum, which is
taken over the 5 meaningful bytes (R60, R61, R161). -/
def configurationFrame (speed ftype mode : Byte) : List Byte :=
  [0xAA, 0x55, 0x12, speed, ftype] ++ List.replicate 8 0x00 ++ [mode, 0x01] ++ List.replicate 4 0x00
    ++ [checksum [0x12, speed, ftype, mode, 0x01]]

/-- CFGBLD (R161, R162). -/
def execCfgbld (speed ftype mode : Byte) (s : State) : Host.Outcome State Fault Refusal :=
  .next (s.respond .ok (.frame (configurationFrame speed ftype mode)))

/-- The info byte of a data frame with `n` payload bytes (R63, R164). -/
def infoByte (ext : Bool) (n : Nat) : Byte :=
  0xC0 ||| (if ext then 0x20 else 0x00) ||| BitVec.ofNat 8 n

/-- A data frame: no checksum, the end byte its only trailer (R62, R164). -/
def dataFrame (ext : Bool) (idMsb idLsb : Byte) (payload : List Byte) : List Byte :=
  [0xAA, infoByte ext payload.length, idLsb, idMsb] ++ payload ++ [0x55]

/-- DATBLD (R164, R165): the payload's length is tested against 8, never against `SEQ_MAX`. -/
def execDatbld (ext : Bool) (idMsb idLsb : Byte) (payload : List Byte) (s : State) :
    Host.Outcome State Fault Refusal :=
  if 8 < payload.length then .next (s.raise .payloadTooLong)
  else .next (s.respond .ok (.frame (dataFrame ext idMsb idLsb payload)))

/-- The fields of a received data frame, its class DATA among them, or none where the sequence is not one: at least 6 bytes, the first 0xAA
and the second with high nibble 0xC (R167). The end byte and the length code are not checked (R170). -/
def decodeDataFrame : List Byte → Option DataFields
  | r0 :: r1 :: r2 :: r3 :: rest =>
    let raw := r0 :: r1 :: r2 :: r3 :: rest
    if 6 ≤ raw.length ∧ r0 = 0xAA ∧ highNibble r1 = 0xC then
      some {
        cls := .data
        idLsb := r2
        idMsb := r3
        id := (r3.zeroExtend 16 <<< 8) ||| r2.zeroExtend 16
        ext := extFlag r1
        dlc := lowNibble r1
        payload := slice 4 (raw.length - 2) raw
        disp := (slice 2 (raw.length - 2) raw).reverse }
    else none
  | _ => none

/-- The class of a sequence that is no data frame: 20 bytes beginning `AA 55` are COMMAND, everything else is
UNKNOWN (R167, R169). -/
def otherClass : List Byte → FrameClass
  | r0 :: r1 :: rest =>
    if rest.length + 2 = 20 ∧ r0 = 0xAA ∧ r1 = 0x55 then .command else .unknown
  | _ => .unknown

/-- DATDEC (R167, R170). -/
def execDatdec (raw : List Byte) (s : State) : Host.Outcome State Fault Refusal :=
  if s.takes raw then
    match decodeDataFrame raw with
    | some d => .next (s.respond .ok (.decoded d))
    | none => .next (s.raise .notADataFrame (.classified (otherClass raw)))
  else .next (s.raise .illegalOp)

end Sys2Proof.Machine
end

