-- ==== Sys2Proof/Machine/HexCodec.lean ====
section
/-! DEFINITION. The Hex Codec (spec/41_hex_codec.md). -/

namespace Sys2Proof.Machine

/-- `(lsb, msb)` of an identifier string of 1 to 3 hex digits; none for any other length or for non-hex content
(R112). -/
def identifierOf (str : List Byte) : Option (Byte × Byte) :=
  match str.map hexval with
  | [some a] => some (byteOfDigits 0 a, 0)
  | [some a, some b] => some (byteOfDigits a b, 0)
  | [some a, some b, some c] => some (byteOfDigits b c, byteOfDigits 0 a)
  | _ => none

/-- HEXID (R112, R113). -/
def execHexid (str : List Byte) (s : State) : Host.Outcome State Fault Refusal :=
  if s.takes str then
    match identifierOf str with
    | some (lsb, msb) => .next (s.respond .ok (.identifier lsb msb))
    | none => .next (s.raise .invalidIdentifier)
  else .next (s.raise .illegalOp)

/-- The bytes of a payload string, at most `max_len` of them (R115). -/
def payloadBytes (maxLen : Byte) (str : List Byte) : List Byte :=
  (pairDigits (hexDigits str)).take maxLen.toNat

/-- HEXPL (R115 to R117). -/
def execHexpl (maxLen : Byte) (str : List Byte) (s : State) : Host.Outcome State Fault Refusal :=
  if s.takes str then
    .next (s.respond .ok (.bytes (payloadBytes maxLen str) (truncFlag (hexDigits str) maxLen)))
  else .next (s.raise .illegalOp)

end Sys2Proof.Machine
end

