-- ==== Sys2Proof/Machine/Dispatch.lean ====
section
/-! DEFINITION. The meaning of each instruction, by one arm each (R71). -/

namespace Sys2Proof.Machine

def exec (i : Instr) (s : State) : Host.Outcome State Fault Refusal :=
  match i with
  | .cksum bytes => Sys2Proof.Machine.execCksum bytes s
  | .hexid str => Sys2Proof.Machine.execHexid str s
  | .hexpl maxLen str => Sys2Proof.Machine.execHexpl maxLen str s
  | .asmByte x => Sys2Proof.Machine.execAsmByte x s
  | .asmEmpty => Sys2Proof.Machine.execAsmEmpty s
  | .asmCancel => Sys2Proof.Machine.execAsmCancel s
  | .cfgbld speed ftype mode => Sys2Proof.Machine.execCfgbld speed ftype mode s
  | .datbld ext idMsb idLsb payload => Sys2Proof.Machine.execDatbld ext idMsb idLsb payload s
  | .datdec raw => Sys2Proof.Machine.execDatdec raw s

end Sys2Proof.Machine
end

