-- ==== Sys2Proof/Machine/Serve.lean ====
section
/-! DEFINITION. How the block serves one request (R5, R49, R72, R73, R242). -/

namespace Sys2Proof.Machine

/-- One request: refused before the first reset (R242); ILLEGAL_OP with no state change where it is no
instruction (R72, R73), before any other error (R202); else the instruction's meaning. -/
def serve (r : Request) (s : State) : Host.Outcome State Fault Refusal :=
  if s.wasReset then
    match decode r with
    | .ok i => exec i s
    | .error _ => .next (s.raise .illegalOp)
  else .refused .beforeFirstReset

end Sys2Proof.Machine
end

