-- ==== Sys2Proof/Machine/Step.lean ====
section
/-! DEFINITION. One step of the machine: the block serves the request on the port, or else the host moves. The
agents alternate on the port, so which one moves is read from the state (R14, R52, R209). -/

namespace Sys2Proof.Machine

/-- One step. An instance with `MAX_LEN = 0` is refused as a configuration (R6). -/
def step (s : State) : Host.Outcome State Fault Refusal :=
  if s.params.maxLen = 0 then .refused .maxLenZero
  else
    match s.port with
    | .request r => serve r s
    | .response r =>
      match hostTake r s with
      | some s' => .next s'
      | none => .fault .unexpectedResponse
    | .idle => .next (hostAct s)

/-- The request of an opcode-table word put on the port, where the next step serves it. The block must have been
reset for that (R242), so the reset mark is set; nothing else changes (log entry 2). -/
def State.withFetchWord (s : State) (nbits w : Nat) : State :=
  { s with port := .request (requestOfTableWord nbits w), wasReset := true }

/-- A run given to the host: it starts with the next step once the port is idle (R214; log entry 2). -/
def State.withRun (s : State) (a : RunInputs) : State := { s with phase := .start a }

/-- A script given to the host of R211 (log entry 2). -/
def State.withScript (s : State) (script : List HostAction) : State :=
  { s with phase := .scripted, script := script }

end Sys2Proof.Machine
end

