-- ==== Sys2Proof/Safety.lean ====
section
/-! DEFINITION. What claims about the machine are stated in: when the block serves a request, what an
ill-formed request does, streams fed to the assembler, and the invariants of block and host. -/

namespace Sys2Proof.Machine

/-! ## Requests -/

/-- The block is instantiated and reset, and a request is on the port (R6, R242). -/
def Serving (s : State) (r : Request) : Prop :=
  s.params.maxLen ≠ 0 ∧ s.wasReset = true ∧ s.port = .request r

/-- A request that gets ILLEGAL_OP in every state that serves it, and changes nothing else (R72, R73). -/
def IllegalRequest (r : Request) : Prop :=
  ∀ s : State, Serving s r → step s = .next { s with port := .response ⟨.illegalOp, .nothing⟩ }

/-- `W[31:24]` as a number, read off the word arithmetically. -/
def opNumber (w : Word) : Nat := w.toNat / 2 ^ 24

/-- The table of R74: which responses an operation may give, one constructor for each entry, the frame lengths and
HEXPL's byte count as the table has them, and the last row for every operation. -/
inductive Answers : Instr → Response → Prop where
  | cksum (q : List Byte) (c : Byte) : Answers (.cksum q) ⟨.ok, .sum c⟩
  | hexid (q : List Byte) (lsb msb : Byte) : Answers (.hexid q) ⟨.ok, .identifier lsb msb⟩
  | hexidInvalid (q : List Byte) : Answers (.hexid q) ⟨.invalidIdentifier, .nothing⟩
  | hexpl (m : Byte) (q out : List Byte) (trunc : Bool) (h : out.length ≤ m.toNat) :
    Answers (.hexpl m q) ⟨.ok, .bytes out trunc⟩
  | asmBytePending (x : Byte) : Answers (.asmByte x) ⟨.pending, .nothing⟩
  | asmByteFrame (x : Byte) (f : List Byte) : Answers (.asmByte x) ⟨.frame, .frame f⟩
  | asmByteOverflow (x : Byte) : Answers (.asmByte x) ⟨.frameOverflow, .nothing⟩
  | asmEmpty : Answers .asmEmpty ⟨.pending, .nothing⟩
  | asmCancel : Answers .asmCancel ⟨.cancelled, .nothing⟩
  | cfgbld (a b c : Byte) (f : List Byte) (h : f.length = 20) : Answers (.cfgbld a b c) ⟨.ok, .frame f⟩
  | datbld (e : Bool) (m l : Byte) (p f : List Byte) (h₁ : 5 ≤ f.length) (h₂ : f.length ≤ 13) :
    Answers (.datbld e m l p) ⟨.ok, .frame f⟩
  | datbldTooLong (e : Bool) (m l : Byte) (p : List Byte) : Answers (.datbld e m l p) ⟨.payloadTooLong, .nothing⟩
  | datdec (q : List Byte) (d : DataFields) (h : d.cls = .data) : Answers (.datdec q) ⟨.ok, .decoded d⟩
  | datdecOther (q : List Byte) (c : FrameClass) (h : c ≠ .data) : Answers (.datdec q) ⟨.notADataFrame, .classified c⟩
  | illegal (i : Instr) : Answers i ⟨.illegalOp, .nothing⟩

/-! ## Runs -/

/-- `k` steps, stopping at the first that does not go on. -/
def runSteps : Nat → State → Host.Outcome State Fault Refusal
  | 0, s => .next s
  | k + 1, s =>
    match step s with
    | .next t => runSteps k t
    | .fault e => .fault e
    | .refused e => .refused e

/-! ## Streams of received bytes -/

/-- A stream of bytes given to ASM_BYTE one by one: the responses in order, and the state after the last. -/
def feed (s : State) : List Byte → List Response × State
  | [] => ([], s)
  | x :: xs =>
    match exec (.asmByte x) s with
    | .next t =>
      match t.port with
      | .response r => (r :: (feed t xs).1, (feed t xs).2)
      | _ => ([], t)
    | _ => ([], s)

/-- The frame a response carries, as a list: empty where it carries none. -/
def frameOf (r : Response) : List Byte :=
  match r.results with
  | .frame f => if r.status = .frame then f else []
  | _ => []

/-! ## Invariants -/

/-- The buffer between requests: shorter than `MAX_LEN`, and not a complete frame (R21, R134). -/
def BufferInv (s : State) : Prop := s.asmBuf.length < s.params.maxLen ∧ complete s.asmBuf = false

/-- The requests a host of a phase may be waiting on: the one request its procedure issues there, HEXID and HEXPL of
the run's own strings, HEXPL with `max_len` 8, and DATBLD with at most 8 payload bytes (R9, R214, R216, R217, R222).
A phase that waits for nothing has none. -/
def Asked : Phase → Instr → Prop
  | .awaitIdentifier _ g _, i => i = .hexid g.identifier
  | .awaitPayload _ g _, i => i = .hexpl Config.hexMaxLenReference g.payload
  | .awaitConfiguration _, i => ∃ a b c, i = .cfgbld a b c
  | .awaitDataFrame, i => ∃ e m l p, i = .datbld e m l p ∧ p.length ≤ 8
  | .awaitCancelled, i => i = .asmCancel
  | .awaitEmpty, i => i = .asmEmpty
  | .awaitByte, i => ∃ x, i = .asmByte x
  | .awaitDecoded raw _, i => i = .datdec raw
  | _, _ => False

/-- Whether a phase waits for a response (R211). -/
def waiting : Phase → Bool
  | .awaitIdentifier _ _ _ => true
  | .awaitPayload _ _ _ => true
  | .awaitConfiguration _ => true
  | .awaitDataFrame => true
  | .awaitCancelled => true
  | .awaitEmpty => true
  | .awaitByte => true
  | .awaitDecoded _ _ => true
  | _ => false

/-- A response a host can meet while it waits for the answer to an instruction: one of the table R74,
PAYLOAD_TOO_LONG never and ILLEGAL_OP only where the operand is subject to `SEQ_MAX` (R8, R217). -/
def Expected (i : Instr) (r : Response) : Prop :=
  Answers i r ∧ r.status ≠ .payloadTooLong ∧
    (r.status = .illegalOp → i.op = .hexid ∨ i.op = .hexpl ∨ i.op = .datdec)

/-- Phases of a run that injects after its strings are validated: the payload has 1 to 8 bytes there (R216, R217). -/
def injecting : Phase → Bool
  | .openTransport a _ => match a.mode with
    | .inject _ => true
    | .dump _ => false
  | .awaitConfiguration (.inject _) => true
  | .injectTop => true
  | .injectSleep => true
  | .injectBuild => true
  | .awaitDataFrame => true
  | _ => false

/-- Phases in which the host may stand before the block's first reset (R243). -/
def beforeReset : Phase → Bool
  | .scripted => true
  | .start _ => true
  | .ended _ => true
  | _ => false

/-- The host and the port agree: a host that waits has its request or an expected response on the port; any other
host of a run finds the port idle; the payload keeps 1 to 8 bytes while a run injects; and the block of a run has
been reset (R211, R216, R217, R243). The scripted host may have anything on the port. -/
def HostInv (s : State) : Prop :=
  (waiting s.phase = true →
    (∃ q i, s.port = .request q ∧ decode q = .ok i ∧ Asked s.phase i) ∨
    (∃ r i, s.port = .response r ∧ Asked s.phase i ∧ Expected i r)) ∧
  (waiting s.phase = false → s.phase = .scripted ∨ s.port = .idle) ∧
  (injecting s.phase = true → 1 ≤ s.inj.payload.length ∧ s.inj.payload.length ≤ 8) ∧
  (beforeReset s.phase = false → s.wasReset = true)

/-- Phases between the limit test of the Dump Loop and the count of the frame it obtains (R221). -/
def receiving : Phase → Bool
  | .receiveTop => true
  | .pollWait => true
  | .awaitCancelled => true
  | .awaitEmpty => true
  | .awaitByte => true
  | .awaitDecoded _ _ => true
  | _ => false

/-- The count never exceeds the limit, and is below it while a frame is being received (R224). -/
def DumpInv (s : State) : Prop :=
  ∀ l, s.dump.limit = some l → s.dump.count ≤ l ∧ (receiving s.phase = true → s.dump.count < l)

end Sys2Proof.Machine
end

