-- ==== Sys2Proof/Certificates/Slice0/Obligations.lean ====
section
/-! DEFINITION. The statements about the machine. Each `def` is one statement; OBLIGATIONS.json lists them
with the rules of spec/ they formalise. -/

open Sys2Proof Sys2Proof.Machine

/-! ## Encoding and decoding -/

/-- Decoding the encoded form of an instruction gives the instruction back, whatever its operands: no bit of an
encoding is dropped (R69 to R71). -/
def Obligations.DecodeOfEncode : Prop :=
  ∀ i : Instr, decode (encode i) = .ok i

/-- Only the encoded form of an instruction decodes to it: each instruction has exactly one request (R70 to R73). -/
def Obligations.EncodeOfDecode : Prop :=
  ∀ (r : Request) (i : Instr), decode r = .ok i → encode i = r

/-- Words written out from R70 and R71 decode to the instructions they stand for. -/
def Obligations.WordsOfTheSpecDecode : Prop :=
  decode ⟨0x01000000, [0x12, 0x03]⟩ = .ok (.cksum [0x12, 0x03]) ∧
  decode ⟨0x02000000, [0x31]⟩ = .ok (.hexid [0x31]) ∧
  decode ⟨0x03000008, [0x31, 0x32]⟩ = .ok (.hexpl 0x08 [0x31, 0x32]) ∧
  decode ⟨0x100000AA, []⟩ = .ok (.asmByte 0xAA) ∧
  decode ⟨0x20030100, []⟩ = .ok (.cfgbld 0x03 0x01 0x00) ∧
  decode ⟨0x21010123, [0x11, 0x22]⟩ = .ok (.datbld true 0x01 0x23 [0x11, 0x22])

/-- R73: a request whose operation code is in none of the assigned places gets ILLEGAL_OP and changes nothing. -/
def Obligations.UnassignedOpIsIllegal : Prop :=
  ∀ (w : Word) (seq : List Byte),
    (opNumber w = 0x00 ∨ (0x04 ≤ opNumber w ∧ opNumber w ≤ 0x0F) ∨ (0x13 ≤ opNumber w ∧ opNumber w ≤ 0x1F) ∨
      0x23 ≤ opNumber w) → IllegalRequest ⟨w, seq⟩

/-- R72: reserved bits set, or a sequence given to an operation of format N, B or C, gets ILLEGAL_OP and changes
nothing; the assembler buffer in particular stays. -/
def Obligations.MalformedRequestIsIllegal : Prop :=
  ∀ (w : Word) (seq : List Byte),
    ((opNumber w ∈ [0x01, 0x02, 0x11, 0x12, 0x22] ∧ w.toNat % 2 ^ 24 ≠ 0) ∨
      (opNumber w ∈ [0x03, 0x10] ∧ w.toNat / 2 ^ 8 % 2 ^ 16 ≠ 0) ∨
      (opNumber w = 0x21 ∧ w.toNat / 2 ^ 17 % 2 ^ 7 ≠ 0) ∨
      (opNumber w ∈ [0x10, 0x11, 0x12, 0x20] ∧ seq ≠ [])) → IllegalRequest ⟨w, seq⟩

/-- A step of a block that serves a request which decodes runs the decoded instruction, and adds nothing. -/
def Obligations.StepRunsDecodedInstruction : Prop :=
  ∀ (s : State) (r : Request) (i : Instr), Serving s r → decode r = .ok i → step s = exec i s

/-- R8, of instructions that have been decoded: a bounded instance answers a longer sequence operand with ILLEGAL_OP;
an unbounded instance answers no instruction with it, and no instance answers DATBLD with it (R165). A request that
does not decode is the matter of R72 and R73, not of this. -/
def Obligations.OperandBeyondSeqMaxIsIllegal : Prop :=
  ∀ s : State,
    (∀ (i : Instr) (n : Nat), s.params.seqMax = some n →
      ((∃ q, i = .cksum q ∧ n < q.length) ∨ (∃ q, i = .hexid q ∧ n < q.length) ∨
        (∃ m q, i = .hexpl m q ∧ n < q.length) ∨ (∃ q, i = .datdec q ∧ n < q.length)) →
      exec i s = .next { s with port := .response ⟨.illegalOp, .nothing⟩ }) ∧
    (∀ i : Instr, s.params.seqMax = none → ∃ r t, exec i s = .next t ∧ t.port = .response r ∧ r.status ≠ .illegalOp) ∧
    (∀ ext m l p, ∃ r t, exec (.datbld ext m l p) s = .next t ∧ t.port = .response r ∧ r.status ≠ .illegalOp)

/-! ## The units, instruction by instruction -/

/-- CKSUM (R101): the word's low 24 bits are reserved; the result is the sum of the bytes modulo 256, and nothing
but the response changes. -/
def Obligations.CksumAnswersTheSum : Prop :=
  (∀ (w : Word) (seq : List Byte), opNumber w = 0x01 →
    (w.toNat % 2 ^ 24 ≠ 0 → IllegalRequest ⟨w, seq⟩) ∧
    (w.toNat % 2 ^ 24 = 0 → decode ⟨w, seq⟩ = .ok (.cksum seq))) ∧
  (∀ (s : State) (bytes : List Byte), withinBound s.params.seqMax bytes = true →
    ∃ c : Byte, exec (.cksum bytes) s = .next { s with port := .response ⟨.ok, .sum c⟩ } ∧
      c.toNat = (bytes.map BitVec.toNat).sum % 256)

/-- The laws of R103 for the results CKSUM gives: concatenation adds modulo 256, order does not matter, and
appended zero bytes do not matter. -/
def Obligations.ChecksumLaws : Prop :=
  ∀ (s : State) (b₁ b₂ : List Byte) (n : Nat), s.params.seqMax = none →
    ∃ c₁ c₂ : Byte,
      exec (.cksum b₁) s = .next { s with port := .response ⟨.ok, .sum c₁⟩ } ∧
      exec (.cksum b₂) s = .next { s with port := .response ⟨.ok, .sum c₂⟩ } ∧
      c₁.toNat = (b₁.map BitVec.toNat).sum % 256 ∧
      exec (.cksum (b₁ ++ b₂)) s =
        .next { s with port := .response ⟨.ok, .sum (BitVec.ofNat 8 ((c₁.toNat + c₂.toNat) % 256))⟩ } ∧
      exec (.cksum b₁.reverse) s = .next { s with port := .response ⟨.ok, .sum c₁⟩ } ∧
      exec (.cksum (b₁ ++ List.replicate n 0)) s = .next { s with port := .response ⟨.ok, .sum c₁⟩ }

/-- The digit function (R66, R110): defined on exactly the three ranges, with the values they name. -/
def Obligations.HexDigitValues : Prop :=
  ∀ (ch : Byte) (v : Nibble), hexval ch = some v ↔
    ((0x30 ≤ ch.toNat ∧ ch.toNat ≤ 0x39 ∧ v.toNat = ch.toNat - 0x30) ∨
      (0x41 ≤ ch.toNat ∧ ch.toNat ≤ 0x46 ∧ v.toNat = ch.toNat - 0x41 + 10) ∨
      (0x61 ≤ ch.toNat ∧ ch.toNat ≤ 0x66 ∧ v.toNat = ch.toNat - 0x61 + 10))

/-- HEXID (R112): the positional rule for 1, 2 and 3 hex digits, INVALID_IDENTIFIER for any other length or for
non-hex content, and nothing but the response changes. -/
def Obligations.HexidDecodesIdentifier : Prop :=
  (∀ (w : Word) (seq : List Byte), opNumber w = 0x02 →
    (w.toNat % 2 ^ 24 ≠ 0 → IllegalRequest ⟨w, seq⟩) ∧
    (w.toNat % 2 ^ 24 = 0 → decode ⟨w, seq⟩ = .ok (.hexid seq))) ∧
  (∀ (s : State) (str : List Byte), withinBound s.params.seqMax str = true →
    ((str.length ∉ [1, 2, 3] ∨ ∃ ch ∈ str, hexval ch = none) →
      exec (.hexid str) s = .next { s with port := .response ⟨.invalidIdentifier, .nothing⟩ }) ∧
    (∀ c₀ v₀, str = [c₀] → hexval c₀ = some v₀ →
      exec (.hexid str) s =
        .next { s with port := .response ⟨.ok, .identifier (BitVec.ofNat 8 v₀.toNat) 0⟩ }) ∧
    (∀ c₀ c₁ v₀ v₁, str = [c₀, c₁] → hexval c₀ = some v₀ → hexval c₁ = some v₁ →
      exec (.hexid str) s =
        .next { s with port := .response ⟨.ok, .identifier (BitVec.ofNat 8 (v₀.toNat * 16 + v₁.toNat)) 0⟩ }) ∧
    (∀ c₀ c₁ c₂ v₀ v₁ v₂, str = [c₀, c₁, c₂] → hexval c₀ = some v₀ → hexval c₁ = some v₁ → hexval c₂ = some v₂ →
      exec (.hexid str) s =
        .next { s with port := .response ⟨.ok,
          .identifier (BitVec.ofNat 8 (v₁.toNat * 16 + v₂.toNat)) (BitVec.ofNat 8 v₀.toNat)⟩ }))

/-- HEXPL (R115, R116): the bytes are the consecutive hex digits paired, first digit high, cut at `max_len`; `trunc`
says that more than `2 * max_len` digits were there; nothing but the response changes. -/
def Obligations.HexplDecodesPayload : Prop :=
  (∀ (w : Word) (seq : List Byte), opNumber w = 0x03 →
    (w.toNat / 2 ^ 8 % 2 ^ 16 ≠ 0 → IllegalRequest ⟨w, seq⟩) ∧
    (w.toNat / 2 ^ 8 % 2 ^ 16 = 0 → decode ⟨w, seq⟩ = .ok (.hexpl (BitVec.ofNat 8 (w.toNat % 2 ^ 8)) seq))) ∧
  (∀ (s : State) (maxLen : Byte) (str : List Byte), withinBound s.params.seqMax str = true →
    ∃ out : List Byte,
      exec (.hexpl maxLen str) s = .next { s with port := .response ⟨.ok, .bytes out
        (decide (2 * maxLen.toNat < (str.filterMap hexval).length))⟩ } ∧
      out.length = min ((str.filterMap hexval).length / 2) maxLen.toNat ∧
      ∀ i, i < out.length → ∃ hi lo : Nibble, (str.filterMap hexval)[2 * i]? = some hi ∧
        (str.filterMap hexval)[2 * i + 1]? = some lo ∧ out[i]? = some (BitVec.ofNat 8 (hi.toNat * 16 + lo.toNat)))

/-- Characters that are not hex digits have no effect on what HEXPL answers (R68, R115). -/
def Obligations.HexplIgnoresOtherCharacters : Prop :=
  ∀ (s : State) (maxLen : Byte) (str : List Byte), s.params.seqMax = none →
    exec (.hexpl maxLen (str.filter fun ch => (hexval ch).isSome)) s = exec (.hexpl maxLen str) s

/-- The completion rule, case by case, with length codes 9 to 15 never complete (R131, R132). -/
def Obligations.CompletionRule : Prop :=
  ∀ (b0 b1 : Byte) (rest : List Byte),
    (b0 ≠ 0xAA → complete (b0 :: rest) = true) ∧
    complete [0xAA] = false ∧
    complete (0xAA :: 0x55 :: rest) = decide (20 ≤ rest.length + 2) ∧
    (b1.toNat / 16 = 0xC → b1.toNat % 16 ≤ 8 →
      complete (0xAA :: b1 :: rest) = decide (b1.toNat % 16 + 5 ≤ rest.length + 2)) ∧
    (b1.toNat / 16 = 0xC → 9 ≤ b1.toNat % 16 → complete (0xAA :: b1 :: rest) = false) ∧
    (b1 ≠ 0x55 → b1.toNat / 16 ≠ 0xC → complete (0xAA :: b1 :: rest) = true)

/-- ASM_BYTE (R134, R135): the byte is appended; a complete buffer is emitted whole and cleared; else a buffer of
`MAX_LEN` bytes overflows and is cleared; else it is kept. Nothing else changes. -/
def Obligations.AsmByteAppendsOrEmits : Prop :=
  (∀ (w : Word) (seq : List Byte), opNumber w = 0x10 →
    ((w.toNat / 2 ^ 8 % 2 ^ 16 ≠ 0 ∨ seq ≠ []) → IllegalRequest ⟨w, seq⟩) ∧
    (w.toNat / 2 ^ 8 % 2 ^ 16 = 0 → seq = [] →
      decode ⟨w, seq⟩ = .ok (.asmByte (BitVec.ofNat 8 (w.toNat % 2 ^ 8))))) ∧
  (∀ (s : State) (x : Byte),
    (complete (s.asmBuf ++ [x]) = true →
      exec (.asmByte x) s =
        .next { s with asmBuf := [], port := .response ⟨.frame, .frame (s.asmBuf ++ [x])⟩ }) ∧
    (complete (s.asmBuf ++ [x]) = false → s.params.maxLen ≤ s.asmBuf.length + 1 →
      exec (.asmByte x) s = .next { s with asmBuf := [], port := .response ⟨.frameOverflow, .nothing⟩ }) ∧
    (complete (s.asmBuf ++ [x]) = false → s.asmBuf.length + 1 < s.params.maxLen →
      exec (.asmByte x) s =
        .next { s with asmBuf := s.asmBuf ++ [x], port := .response ⟨.pending, .nothing⟩ }))

/-- ASM_EMPTY (R137): PENDING, with the buffer and everything else unchanged. -/
def Obligations.AsmEmptyLeavesBuffer : Prop :=
  (∀ (w : Word) (seq : List Byte), opNumber w = 0x11 →
    ((w.toNat % 2 ^ 24 ≠ 0 ∨ seq ≠ []) → IllegalRequest ⟨w, seq⟩) ∧
    (w.toNat % 2 ^ 24 = 0 → seq = [] → decode ⟨w, seq⟩ = .ok .asmEmpty)) ∧
  (∀ s : State, exec .asmEmpty s = .next { s with port := .response ⟨.pending, .nothing⟩ })

/-- ASM_CANCEL (R138): CANCELLED, with the buffer cleared and nothing else changed; a second one in a row changes
nothing more. -/
def Obligations.AsmCancelClearsBuffer : Prop :=
  (∀ (w : Word) (seq : List Byte), opNumber w = 0x12 →
    ((w.toNat % 2 ^ 24 ≠ 0 ∨ seq ≠ []) → IllegalRequest ⟨w, seq⟩) ∧
    (w.toNat % 2 ^ 24 = 0 → seq = [] → decode ⟨w, seq⟩ = .ok .asmCancel)) ∧
  (∀ s : State, ∃ t, exec .asmCancel s = .next t ∧
    t = { s with asmBuf := [], port := .response ⟨.cancelled, .nothing⟩ } ∧ exec .asmCancel t = .next t)

/-- CFGBLD (R60, R61, R161): the 20 bytes at their indices, for every code byte; the checksum over the 5 meaningful
bytes equals the sum of bytes 2 to 18 modulo 256; nothing but the response changes. -/
def Obligations.CfgbldBuildsConfigurationFrame : Prop :=
  (∀ (w : Word) (seq : List Byte), opNumber w = 0x20 →
    (seq ≠ [] → IllegalRequest ⟨w, seq⟩) ∧
    (seq = [] → decode ⟨w, seq⟩ = .ok (.cfgbld (BitVec.ofNat 8 (w.toNat / 2 ^ 16 % 2 ^ 8))
      (BitVec.ofNat 8 (w.toNat / 2 ^ 8 % 2 ^ 8)) (BitVec.ofNat 8 (w.toNat % 2 ^ 8))))) ∧
  (∀ (s : State) (speed ftype mode : Byte), ∃ (f : List Byte) (chk : Byte),
    exec (.cfgbld speed ftype mode) s = .next { s with port := .response ⟨.ok, .frame f⟩ } ∧
    f = [0xAA, 0x55, 0x12, speed, ftype, 0, 0, 0, 0, 0, 0, 0, 0, mode, 0x01, 0, 0, 0, 0, chk] ∧
    chk.toNat = (0x12 + speed.toNat + ftype.toNat + mode.toNat + 0x01) % 256 ∧
    chk.toNat = (((f.drop 2).take 17).map BitVec.toNat).sum % 256)

/-- DATBLD (R62, R63, R164): for at most 8 payload bytes the frame of the layout, its info byte `0xC0`, the extended
bit and the length; for more, PAYLOAD_TOO_LONG; nothing but the response changes. -/
def Obligations.DatbldBuildsDataFrame : Prop :=
  (∀ (w : Word) (seq : List Byte), opNumber w = 0x21 →
    (w.toNat / 2 ^ 17 % 2 ^ 7 ≠ 0 → IllegalRequest ⟨w, seq⟩) ∧
    (w.toNat / 2 ^ 17 % 2 ^ 7 = 0 → decode ⟨w, seq⟩ = .ok (.datbld (w.toNat / 2 ^ 16 % 2 == 1)
      (BitVec.ofNat 8 (w.toNat / 2 ^ 8 % 2 ^ 8)) (BitVec.ofNat 8 (w.toNat % 2 ^ 8)) seq))) ∧
  (∀ (s : State) (ext : Bool) (idMsb idLsb : Byte) (payload : List Byte),
    (payload.length ≤ 8 → ∃ info : Byte,
      exec (.datbld ext idMsb idLsb payload) s =
        .next { s with port := .response ⟨.ok, .frame ([0xAA, info, idLsb, idMsb] ++ payload ++ [0x55])⟩ } ∧
      info.toNat = 0xC0 + (if ext then 0x20 else 0) + payload.length) ∧
    (8 < payload.length →
      exec (.datbld ext idMsb idLsb payload) s = .next { s with port := .response ⟨.payloadTooLong, .nothing⟩ }))

/-- DATDEC (R167): the validity test, and for a data frame class DATA and its fields (R74); otherwise
NOT_A_DATA_FRAME with COMMAND for 20 bytes beginning `AA 55` and UNKNOWN for the rest; nothing but the response
changes. -/
def Obligations.DatdecClassifiesAndDecodes : Prop :=
  (∀ (w : Word) (seq : List Byte), opNumber w = 0x22 →
    (w.toNat % 2 ^ 24 ≠ 0 → IllegalRequest ⟨w, seq⟩) ∧
    (w.toNat % 2 ^ 24 = 0 → decode ⟨w, seq⟩ = .ok (.datdec seq))) ∧
  (∀ (s : State) (raw : List Byte), withinBound s.params.seqMax raw = true →
    (∀ r1 r2 r3 tail, raw = 0xAA :: r1 :: r2 :: r3 :: tail → 6 ≤ raw.length → r1.toNat / 16 = 0xC →
      ∃ d : DataFields, exec (.datdec raw) s = .next { s with port := .response ⟨.ok, .decoded d⟩ } ∧
        d.cls = .data ∧ d.idLsb = r2 ∧ d.idMsb = r3 ∧ d.id.toNat = r3.toNat * 256 + r2.toNat ∧ d.ext = r1.getLsbD 5 ∧
        d.dlc.toNat = r1.toNat % 16 ∧ d.payload = (raw.drop 4).take (raw.length - 5) ∧
        d.disp = ((raw.drop 2).take (raw.length - 3)).reverse) ∧
    ((¬ (6 ≤ raw.length ∧ raw[0]? = some 0xAA ∧ ∃ r1, raw[1]? = some r1 ∧ r1.toNat / 16 = 0xC)) →
      exec (.datdec raw) s = .next { s with port := .response ⟨.notADataFrame, .classified
        (if raw.length = 20 ∧ raw[0]? = some 0xAA ∧ raw[1]? = some 0x55 then .command else .unknown)⟩ }))

/-- What DATDEC reports of a data frame, beyond R167's assignments: the display sequence is the reversed payload
followed by the identifier bytes, most significant first (R168); the extended flag is always 0, and neither the
end byte nor the length code is looked at (R170). -/
def Obligations.DatdecDisplayAndUncheckedBytes : Prop :=
  ∀ (s : State) (r1 r2 r3 e : Byte) (mid : List Byte), s.params.seqMax = none →
    r1.toNat / 16 = 0xC → mid ≠ [] →
    exec (.datdec ([0xAA, r1, r2, r3] ++ mid ++ [e])) s = .next { s with port := .response ⟨.ok, .decoded
      { cls := .data, idLsb := r2, idMsb := r3, id := BitVec.ofNat 16 (r3.toNat * 256 + r2.toNat), ext := false,
        dlc := BitVec.ofNat 4 (r1.toNat % 16), payload := mid, disp := mid.reverse ++ [r3, r2] }⟩ }

/-- R171: a Standard frame with 1 to 8 payload bytes, built and decoded, gives back the identifier, the payload and
its length. -/
def Obligations.DataFrameRoundTrip : Prop :=
  ∀ (s : State) (idMsb idLsb : Byte) (payload : List Byte), s.params.seqMax = none →
    1 ≤ payload.length → payload.length ≤ 8 →
    ∃ (f : List Byte) (d : DataFields),
      exec (.datbld false idMsb idLsb payload) s = .next { s with port := .response ⟨.ok, .frame f⟩ } ∧
      exec (.datdec f) s = .next { s with port := .response ⟨.ok, .decoded d⟩ } ∧
      d.cls = .data ∧ d.idLsb = idLsb ∧ d.idMsb = idMsb ∧ d.payload = payload ∧ d.dlc.toNat = payload.length

/-- What the round trip does not cover: an Extended frame and a Standard frame with no payload are built, and both
are classified UNKNOWN (R165, R170). -/
def Obligations.ExtendedAndEmptyFramesAreUnknown : Prop :=
  ∀ (s : State) (ext : Bool) (idMsb idLsb : Byte) (payload : List Byte), s.params.seqMax = none →
    payload.length ≤ 8 → (ext = true ∨ payload = []) →
    ∃ f : List Byte,
      exec (.datbld ext idMsb idLsb payload) s = .next { s with port := .response ⟨.ok, .frame f⟩ } ∧
      exec (.datdec f) s = .next { s with port := .response ⟨.notADataFrame, .classified .unknown⟩ }

/-! ## What instructions leave alone -/

/-- R13: CKSUM, HEXID, HEXPL, CFGBLD, DATBLD and DATDEC give the same response in any two states of one instance,
and change nothing but the response. -/
def Obligations.OtherUnitsArePure : Prop :=
  ∀ (i : Instr) (s₁ s₂ : State), i.op ∉ [Op.asmByte, Op.asmEmpty, Op.asmCancel] → s₁.params = s₂.params →
    ∃ r : Response, exec i s₁ = .next { s₁ with port := .response r } ∧
      exec i s₂ = .next { s₂ with port := .response r }

/-- R22: what changes the buffer in a step, and to what; and the other requests neither read nor write it. -/
def Obligations.OnlyResetAndAssemblerChangeBuffer : Prop :=
  (∀ s t : State, step s = .next t → t.asmBuf ≠ s.asmBuf →
    (∃ r x, s.port = .request r ∧ decode r = .ok (.asmByte x) ∧ (t.asmBuf = [] ∨ t.asmBuf = s.asmBuf ++ [x])) ∨
    (∃ r, s.port = .request r ∧ decode r = .ok .asmCancel ∧ t.asmBuf = []) ∨
    (s.port = .idle ∧ t.asmBuf = [] ∧
      ((∃ a, s.phase = .start a) ∨ (s.phase = .scripted ∧ s.script.head? = some .reset)))) ∧
  (∀ (i : Instr) (s : State), i.op ∉ [Op.asmByte, Op.asmCancel] → ∃ r : Response, ∀ b : List Byte,
    exec i { s with asmBuf := b } = .next { s with asmBuf := b, port := .response r })

/-- Serving a request gives exactly one response, and changes at most the buffer beside it: no host variable, no
parameter, no flag (R5, R49, R53, R250). -/
def Obligations.ServedRequestGetsOneResponse : Prop :=
  ∀ (s : State) (q : Request), Serving s q →
    ∃ (r : Response) (b : List Byte), step s = .next { s with asmBuf := b, port := .response r }

/-- The block sees nothing of the host: two machines with the same parameters, buffer, reset mark and port serve a
request alike (R30, R53). -/
def Obligations.BlockIgnoresTheHost : Prop :=
  ∀ (s₁ s₂ t₁ : State) (q : Request), s₁.port = .request q → s₂.port = .request q → s₁.params = s₂.params →
    s₁.asmBuf = s₂.asmBuf → s₁.wasReset = s₂.wasReset → step s₁ = .next t₁ →
    step s₂ = .next { s₂ with asmBuf := t₁.asmBuf, port := t₁.port }

/-- Every instruction gets a response that stands in the table R74; the statuses and classes have the codes of R74
and R75, and no status the block gives has one of the reserved codes. -/
def Obligations.ResponsesFollowTheTable : Prop :=
  (∀ (i : Instr) (s : State), ∃ (r : Response) (t : State), exec i s = .next t ∧ t.port = .response r ∧
    Answers i r ∧ ¬ (0x8 ≤ (statusCode r.status).toNat ∧ (statusCode r.status).toNat ≤ 0xE)) ∧
  [Status.ok, .frame, .pending, .cancelled, .frameOverflow, .invalidIdentifier, .payloadTooLong, .notADataFrame,
    .illegalOp].map statusCode = [0x0, 0x1, 0x2, 0x3, 0x4, 0x5, 0x6, 0x7, 0xF] ∧
  [FrameClass.data, .command, .unknown].map classCode = [0, 1, 2] ∧ ∀ c : FrameClass, classCode c ≠ 3

/-- No step changes an instantiation parameter (R6, R27). -/
def Obligations.ParametersNeverChange : Prop :=
  ∀ s t : State, step s = .next t → t.params = s.params

/-- R242: a request before the first reset is refused. -/
def Obligations.RequestBeforeResetIsRefused : Prop :=
  ∀ (s : State) (r : Request), s.params.maxLen ≠ 0 → s.wasReset = false → s.port = .request r →
    step s = .refused .beforeFirstReset

/-- An instance with `MAX_LEN = 0` is refused (R6). -/
def Obligations.MaxLenZeroIsRefused : Prop :=
  ∀ s : State, s.params.maxLen = 0 → step s = .refused .maxLenZero

/-! ## The assembler over streams -/

/-- The buffer invariant is kept by every step (R21, R23). -/
def Obligations.StepKeepsBufferInvariant : Prop :=
  ∀ s t : State, BufferInv s → step s = .next t → BufferInv t

/-- Reset leaves what R240 and R241 say: the buffer empty, no request or response, the flag false, the count 0; and
the buffer invariant holds. -/
def Obligations.ResetState : Prop :=
  State.reset.asmBuf = [] ∧ State.reset.port = .idle ∧ State.reset.cancel = false ∧ State.reset.dump.count = 0 ∧
    BufferInv State.reset ∧ HostInv State.reset ∧ DumpInv State.reset

/-- R240: a reset between two requests makes the buffer empty and gives no response; on the buffer it does what
ASM_CANCEL does. -/
def Obligations.ResetClearsBuffer : Prop :=
  ∀ (s : State) (rest : List HostAction), s.params.maxLen ≠ 0 → s.port = .idle → s.phase = .scripted →
    s.script = .reset :: rest →
    step s = .next { s with script := rest, asmBuf := [], wasReset := true } ∧
    ∃ t, exec .asmCancel s = .next t ∧ t.asmBuf = []

/-- What the invariant says of the first two bytes of an open buffer (R23). -/
def Obligations.OpenBufferShape : Prop :=
  ∀ s : State, BufferInv s →
    (∀ b0, s.asmBuf[0]? = some b0 → b0 = 0xAA) ∧
    (∀ b1, s.asmBuf[1]? = some b1 → b1 = 0x55 ∨ b1.toNat / 16 = 0xC)

/-- The shapes of emitted frames, and the bound on frames and overflowing buffers (R139). -/
def Obligations.EmittedFrameShapes : Prop :=
  ∀ (s t : State) (x : Byte), BufferInv s → exec (.asmByte x) s = .next t →
    (∀ f, t.port = .response ⟨.frame, .frame f⟩ → f.length ≤ s.params.maxLen ∧
      ((∃ b, f = [b] ∧ b ≠ 0xAA) ∨
        (∃ b, f = [0xAA, b] ∧ b ≠ 0x55 ∧ b.toNat / 16 ≠ 0xC) ∨
        (∃ tail, f = 0xAA :: 0x55 :: tail ∧ f.length = 20) ∨
        (∃ c tail, f = 0xAA :: c :: tail ∧ c.toNat / 16 = 0xC ∧ c.toNat % 16 ≤ 8 ∧
          f.length = c.toNat % 16 + 5))) ∧
    (t.port = .response ⟨.frameOverflow, .nothing⟩ → s.asmBuf.length + 1 = s.params.maxLen)

/-- No byte is lost, doubled or moved while no overflow happens: the emitted frames and the buffer left over, joined,
are the buffer before and the stream (R139). -/
def Obligations.FramesPartitionTheStream : Prop :=
  ∀ (s : State) (xs : List Byte),
    (∀ r ∈ (feed s xs).1, r.status ≠ .frameOverflow) →
    ((feed s xs).1.map frameOf).flatten ++ (feed s xs).2.asmBuf = s.asmBuf ++ xs

/-- R132: after `AA` and a byte with high nibble C and length code 9 to 15, every byte is PENDING until the one that
makes `MAX_LEN`, which overflows and leaves the buffer empty. -/
def Obligations.LongLengthCodesOverflow : Prop :=
  ∀ (s : State) (c : Byte) (rest : List Byte), s.asmBuf = [] → c.toNat / 16 = 0xC → 9 ≤ c.toNat % 16 →
    rest.length + 2 = s.params.maxLen →
    (feed s (0xAA :: c :: rest)).1 =
      List.replicate (s.params.maxLen - 1) ⟨.pending, .nothing⟩ ++ [⟨.frameOverflow, .nothing⟩] ∧
    (feed s (0xAA :: c :: rest)).2.asmBuf = []

/-- A cycle cannot stay PENDING for ever: of any bytes that fill the buffer to `MAX_LEN`, one is answered by
something else (R250). -/
def Obligations.CycleEndsWithinMaxLen : Prop :=
  ∀ (s : State) (xs : List Byte), s.params.maxLen ≠ 0 → s.params.maxLen ≤ s.asmBuf.length + xs.length → xs ≠ [] →
    ∃ r ∈ (feed s xs).1, r.status ≠ .pending

/-- A Standard data frame built by DATBLD and fed to an empty assembler with room for it is reassembled: PENDING for
every byte but the last, then FRAME with the whole frame (R131, R134, R164). -/
def Obligations.BuiltDataFrameIsReassembled : Prop :=
  ∀ (s : State) (idMsb idLsb : Byte) (payload : List Byte), s.asmBuf = [] → payload.length ≤ 8 →
    payload.length + 5 ≤ s.params.maxLen →
    ∃ f : List Byte,
      exec (.datbld false idMsb idLsb payload) s = .next { s with port := .response ⟨.ok, .frame f⟩ } ∧
      (feed s f).1 = List.replicate (payload.length + 4) ⟨.pending, .nothing⟩ ++ [⟨.frame, .frame f⟩] ∧
      (feed s f).2.asmBuf = []

/-- A configuration frame built by CFGBLD and fed to an empty assembler of at least 20 bytes is reassembled, and
DATDEC classifies it COMMAND (R131, R134, R161, R169). -/
def Obligations.BuiltConfigurationFrameIsReassembled : Prop :=
  ∀ (s : State) (speed ftype mode : Byte), s.asmBuf = [] → 20 ≤ s.params.maxLen → s.params.seqMax = none →
    ∃ f : List Byte,
      exec (.cfgbld speed ftype mode) s = .next { s with port := .response ⟨.ok, .frame f⟩ } ∧
      (feed s f).1 = List.replicate 19 ⟨.pending, .nothing⟩ ++ [⟨.frame, .frame f⟩] ∧
      (feed s f).2.asmBuf = [] ∧
      exec (.datdec f) s = .next { s with port := .response ⟨.notADataFrame, .classified .command⟩ }

/-- An Extended data frame is split: its first two bytes are emitted as a frame, and, where none of the others is
0xAA, each of them as a frame of its own (R77). -/
def Obligations.ExtendedFrameIsSplit : Prop :=
  ∀ (s : State) (idMsb idLsb : Byte) (payload : List Byte), s.asmBuf = [] → 2 ≤ s.params.maxLen →
    payload.length ≤ 8 → (∀ b ∈ idLsb :: idMsb :: payload, b ≠ 0xAA) →
    ∃ (info : Byte) (tail : List Byte),
      exec (.datbld true idMsb idLsb payload) s =
        .next { s with port := .response ⟨.ok, .frame (0xAA :: info :: tail)⟩ } ∧
      (feed s (0xAA :: info :: tail)).1 =
        ⟨.pending, .nothing⟩ :: ⟨.frame, .frame [0xAA, info]⟩ :: tail.map (fun b => ⟨.frame, .frame [b]⟩) ∧
      (feed s (0xAA :: info :: tail)).2.asmBuf = []

/-! ## The host model -/

/-- The agreement of host and port is kept by every step (R211, R216, R243). On an instance with a `SEQ_MAX` it
counts on the model's own cases for ILLEGAL_OP (log entry 12, a design choice). -/
def Obligations.StepKeepsHostInvariant : Prop :=
  ∀ s t : State, HostInv s → step s = .next t → HostInv t

/-- Where host and port agree, a run's step never faults and is never refused on a legal instance: every response
the block gives is one the host has a case for (R211, R214 to R222). On an instance with a `SEQ_MAX` that is so only by
the model's choice of a case for ILLEGAL_OP to HEXID, HEXPL and DATDEC (log entry 12, a design choice): the spec's host
names none. -/
def Obligations.RunNeverStops : Prop :=
  ∀ s : State, HostInv s → s.params.maxLen ≠ 0 →
    (∀ e, step s ≠ .fault e) ∧ (s.phase ≠ .scripted → (∀ e, s.phase ≠ .ended e) → ∃ t, step s = .next t ∧ t ≠ s)

/-- The count of the Dump Loop never passes its limit (R224). -/
def Obligations.StepKeepsDumpLimit : Prop :=
  ∀ s t : State, DumpInv s → step s = .next t → DumpInv t

/-- R213: a set cancellation flag stays set until a new run starts. -/
def Obligations.CancellationIsSticky : Prop :=
  ∀ s t : State, s.cancel = true → (∀ a, s.phase ≠ .start a) → step s = .next t → t.cancel = true

/-- The scripted host issues any request, waits for its response and records it, one at a time (R211). -/
def Obligations.ScriptedHostTakesOneResponse : Prop :=
  ∀ (s : State) (q : Request) (rest : List HostAction), s.phase = .scripted → s.port = .idle →
    s.wasReset = true → s.params.maxLen ≠ 0 → s.script = .request q :: rest →
    ∃ (r : Response) (b : List Byte),
      runSteps 3 s =
        .next { s with script := rest, asmBuf := b, seen := s.seen ++ [.response r] } ∧
      step { s with script := rest, port := .request q } =
        .next { s with script := rest, asmBuf := b, port := .response r }

/-- Start-up (R213, R214, R215, R224, R241, R243): the block is reset, the flag cleared, the count zeroed and the limit
set to the run's input, absent where the run injects, in one move of the model's choosing (log entry 14). An unmapped
bitrate then ends the run with InvalidSpeed, with no request made and the transport untouched; with a mapped one a dump
run goes to the open of the transport, with no request made. -/
def Obligations.StartResetsAndChecksSpeed : Prop :=
  (∀ (s : State) (a : RunInputs), s.params.maxLen ≠ 0 → s.port = .idle → s.phase = .start a →
    ∃ t, step s = .next t ∧ t.asmBuf = [] ∧ t.wasReset = true ∧ t.cancel = false ∧ t.dump.count = 0 ∧
      t.dump.limit = (match a.mode with
        | .inject _ => none
        | .dump l => l) ∧
      t.phase = .lookUpSpeed a ∧ t.link = s.link ∧ t.port = .idle) ∧
  (∀ (s : State) (a : RunInputs), s.params.maxLen ≠ 0 → s.port = .idle → s.phase = .lookUpSpeed a →
    s.params.codes.speed.lookup a.bitrate = none →
    step s = .next { s with phase := .ended .invalidSpeed }) ∧
  (∀ (s : State) (a : RunInputs) (l : Option Nat) (speed : Byte), s.params.maxLen ≠ 0 → s.port = .idle →
    s.phase = .lookUpSpeed a → a.mode = .dump l → s.params.codes.speed.lookup a.bitrate = some speed →
    step s = .next { s with phase := .openTransport a speed })

/-- Validation of an injecting run (R216): HEXID of the identifier string is asked, then HEXPL of the payload string
with `max_len` 8 (R9), and how the run goes on from each answer. The record takes the run's mode, interval, frame type
and identifier when HEXID has answered, and the payload when HEXPL has (R217, R241); that moment is the model's choice
(log entry 24), the extended bit is read off the run's frame type (log entry 13), and what ILLEGAL_OP leads to is the
model's choice (log entry 12). -/
def Obligations.InjectionInputValidation : Prop :=
  ∀ (s : State) (a : RunInputs) (g : InjectInputs) (speed : Byte), s.params.maxLen ≠ 0 →
    (s.phase = .lookUpSpeed a → s.port = .idle → a.mode = .inject g →
      s.params.codes.speed.lookup a.bitrate = some speed →
      step s = .next { s with
        port := .request (encode (.hexid g.identifier))
        phase := .awaitIdentifier a g speed }) ∧
    (s.phase = .awaitIdentifier a g speed → s.port = .response ⟨.invalidIdentifier, .nothing⟩ →
      step s = .next { s with port := .idle, phase := .ended .invalidIdentifier }) ∧
    (∀ lsb msb, s.phase = .awaitIdentifier a g speed → s.port = .response ⟨.ok, .identifier lsb msb⟩ →
      step s = .next { s with
        port := .request (encode (.hexpl 8 g.payload))
        phase := .awaitPayload a g speed
        inj := {
          payload := s.inj.payload
          mode := g.mode
          intervalMs := g.intervalMs
          ext := match a.ftype with
            | .standard => false
            | .extended => true
          idLsb := lsb
          idMsb := msb } }) ∧
    ((s.phase = .awaitIdentifier a g speed ∨ s.phase = .awaitPayload a g speed) →
      s.port = .response ⟨.illegalOp, .nothing⟩ →
      step s = .next { s with port := .idle, phase := .ended .operandRefused }) ∧
    (∀ out trunc, s.phase = .awaitPayload a g speed → s.port = .response ⟨.ok, .bytes out trunc⟩ →
      ∃ t, step s = .next t ∧ t.seen = s.seen ++ (if trunc then [.truncated] else []) ∧ t.port = .idle ∧
        t.link = s.link ∧
        ((out = [] ∨ 8 < out.length) → t.phase = .ended .invalidPayload) ∧
        (1 ≤ out.length → out.length ≤ 8 → t.phase = .openTransport a speed ∧ t.inj = { s.inj with payload := out }))

/-- Start-up after validation (R214): an open failure ends the run; otherwise CFGBLD is asked with the three codes of
the instance's maps, in wire order. -/
def Obligations.OpenThenConfigure : Prop :=
  ∀ (s : State) (a : RunInputs) (speed : Byte) (ok : Bool) (more : List Bool), s.params.maxLen ≠ 0 → s.port = .idle →
    s.phase = .openTransport a speed → s.env.opens = ok :: more →
    ∃ t, step s = .next t ∧ t.link.writes = s.link.writes ∧
      (ok = false → t.phase = .ended .transportOpenFailed ∧ t.port = .idle) ∧
      (ok = true → t.phase = .awaitConfiguration a.mode ∧ t.link.opened = some (a.path, a.baud) ∧
        t.port = .request (encode (.cfgbld speed
          (match a.ftype with
            | .standard => s.params.codes.standard
            | .extended => s.params.codes.extended)
          (match a.busMode with
            | .normal => s.params.codes.normal
            | .loopback => s.params.codes.loopback
            | .silent => s.params.codes.silent
            | .loopbackSilent => s.params.codes.loopbackSilent))))

/-- What a write leads to, for the configuration frame and for a data frame (R214, R219, R220): the frame is handed
over whole; an error or a short count ends the run, and a full count leads into the loop. That a count above the
frame's length is a full one too is the model's inference (log entry 16). -/
def Obligations.ShortWriteEndsTheRun : Prop :=
  ∀ (s : State) (f : List Byte) (w : WriteResult) (more : List WriteResult), s.params.maxLen ≠ 0 →
    s.port = .response ⟨.ok, .frame f⟩ → s.env.writes = w :: more →
    (s.phase = .awaitDataFrame ∨ ∃ m, s.phase = .awaitConfiguration m) →
    ∃ t, step s = .next t ∧ t.port = .idle ∧ t.link.writes = s.link.writes ++ [(f, w)] ∧
      ((w = .error ∨ ∃ n, w = .count n ∧ n < f.length) → t.phase = .ended .transportWriteFailed) ∧
      ((∃ n, w = .count n ∧ f.length ≤ n) →
        (s.phase = .awaitDataFrame → t.phase = .injectTop) ∧
        (∀ g, s.phase = .awaitConfiguration (.inject g) → t.phase = .injectTop) ∧
        (∀ l, s.phase = .awaitConfiguration (.dump l) → t.phase = .dumpTop))

/-- The transport is written in no other place: what is written is a frame that CFGBLD or DATBLD has just returned,
whole (R42). -/
def Obligations.OnlyBuiltFramesAreWritten : Prop :=
  ∀ s t : State, step s = .next t → t.link.writes ≠ s.link.writes →
    ∃ (f : List Byte) (w : WriteResult), s.port = .response ⟨.ok, .frame f⟩ ∧
      t.link.writes = s.link.writes ++ [(f, w)] ∧
      (s.phase = .awaitDataFrame ∨ ∃ m, s.phase = .awaitConfiguration m)

/-- The top of an injection iteration (R217): the flag first, then the sleep unless the interval is zero. The sleep
ends in the build whatever the flag says: a cancellation that arrives in it is seen at the next top. -/
def Obligations.InjectionChecksFlagFirst : Prop :=
  (∀ (s : State) (sig : Bool) (more : List Bool), s.params.maxLen ≠ 0 → s.port = .idle → s.phase = .injectTop →
    s.env.signals = sig :: more →
    ∃ t, step s = .next t ∧ t.cancel = (s.cancel || sig) ∧ t.inj = s.inj ∧ t.link = s.link ∧ t.port = .idle ∧
      ((s.cancel = true ∨ sig = true) → t.phase = .ended .stopped) ∧
      (s.cancel = false → sig = false → s.inj.intervalMs = 0 → t.phase = .injectBuild) ∧
      (s.cancel = false → sig = false → s.inj.intervalMs ≠ 0 → t.phase = .injectSleep)) ∧
  (∀ s : State, s.params.maxLen ≠ 0 → s.port = .idle → s.phase = .injectSleep →
    step s = .next { s with phase := .injectBuild })

/-- R218 with the build of R217: the payload is mutated by its mode, keeps its length, and the mutated payload is what
DATBLD is asked to frame. -/
def Obligations.PayloadMutation : Prop :=
  ∀ s : State, s.params.maxLen ≠ 0 → s.port = .idle → s.phase = .injectBuild →
    ∃ (t : State) (p : List Byte), step s = .next t ∧ t.inj = { s.inj with payload := p } ∧
      t.port = .request (encode (.datbld s.inj.ext s.inj.idMsb s.inj.idLsb p)) ∧ t.phase = .awaitDataFrame ∧
      p.length = s.inj.payload.length ∧
      (s.inj.mode = .fixed → p = s.inj.payload) ∧
      (s.inj.mode = .incremental → ∀ (i : Nat) (b : Byte), s.inj.payload[i]? = some b →
        p[i]? = some (BitVec.ofNat 8 ((b.toNat + 1) % 256))) ∧
      (s.inj.mode = .random → ∀ more, s.inj.payload.length ≤ s.env.randoms.length →
        s.env.randoms = s.env.randoms.take s.inj.payload.length ++ more →
        p = s.env.randoms.take s.inj.payload.length ∧ t.env.randoms = more)

/-- One whole iteration of the Injection Loop in Incremental mode, from the build to the answered write: exactly one
frame is written, it carries the incremented payload, and the loop stands at its top again (R217 to R219). That a
count above the frame's length succeeds is the model's inference (log entry 16). -/
def Obligations.InjectionIterationWritesOneFrame : Prop :=
  ∀ (s : State) (n : Nat) (more : List WriteResult), s.params.maxLen ≠ 0 → s.wasReset = true → s.port = .idle →
    s.phase = .injectBuild → s.inj.mode = .incremental → s.inj.payload.length ≤ 8 →
    s.env.writes = .count n :: more → s.inj.payload.length + 5 ≤ n →
    ∃ (t : State) (info : Byte), runSteps 3 s = .next t ∧ t.phase = .injectTop ∧ t.port = .idle ∧
      info.toNat = 0xC0 + (if s.inj.ext then 0x20 else 0) + s.inj.payload.length ∧
      t.inj.payload = s.inj.payload.map (· + 1) ∧
      t.link.writes = s.link.writes ++
        [([0xAA, info, s.inj.idLsb, s.inj.idMsb] ++ s.inj.payload.map (· + 1) ++ [0x55], .count n)]

/-- The top of a reception iteration (R203, R222): with the flag set, ASM_CANCEL and no read; else one read, forwarded
as ASM_BYTE or reported as ASM_EMPTY. -/
def Obligations.ReceptionChecksFlagBeforeReading : Prop :=
  ∀ (s : State) (sig : Bool) (more : List Bool) (rd : Option Byte) (reads : List (Option Byte)),
    s.params.maxLen ≠ 0 → s.port = .idle → s.phase = .receiveTop → s.env.signals = sig :: more →
    s.env.reads = rd :: reads →
    ∃ t, step s = .next t ∧ t.asmBuf = s.asmBuf ∧ t.cancel = (s.cancel || sig) ∧
      ((s.cancel = true ∨ sig = true) → t.port = .request (encode .asmCancel) ∧ t.env.reads = s.env.reads ∧
        t.phase = .awaitCancelled) ∧
      (s.cancel = false → sig = false → t.env.reads = reads ∧
        (rd = none → t.port = .request (encode .asmEmpty) ∧ t.phase = .awaitEmpty) ∧
        (∀ x, rd = some x → t.port = .request (encode (.asmByte x)) ∧ t.phase = .awaitByte))

/-- What the reception cycle does with each answer (R221, R222, R224): PENDING reads on, an overflow is reported and
the count stays, a frame goes to DATDEC, CANCELLED stops the run, and the poll wait reads again. -/
def Obligations.ReceptionOutcomes : Prop :=
  ∀ s : State, s.params.maxLen ≠ 0 →
    (s.phase = .awaitByte → s.port = .response ⟨.pending, .nothing⟩ →
      step s = .next { s with port := .idle, phase := .receiveTop }) ∧
    (∀ tau more, s.env.stamps = tau :: more → s.phase = .awaitByte →
      s.port = .response ⟨.frameOverflow, .nothing⟩ →
      step s = .next { s with
        port := .idle
        phase := .dumpTop
        seen := s.seen ++ [.receiveError tau]
        env := { s.env with stamps := more } }) ∧
    (∀ tau more f, s.env.stamps = tau :: more → s.phase = .awaitByte → s.port = .response ⟨.frame, .frame f⟩ →
      step s = .next { s with
        port := .request (encode (.datdec f))
        phase := .awaitDecoded f tau
        env := { s.env with stamps := more } }) ∧
    (∀ tau more, s.env.stamps = tau :: more → s.phase = .awaitCancelled →
      s.port = .response ⟨.cancelled, .nothing⟩ →
      step s = .next { s with
        port := .idle
        phase := .ended .stopped
        env := { s.env with stamps := more } }) ∧
    (s.phase = .awaitEmpty → s.port = .response ⟨.pending, .nothing⟩ →
      step s = .next { s with port := .idle, phase := .pollWait }) ∧
    (s.phase = .pollWait → s.port = .idle → step s = .next { s with phase := .receiveTop })

/-- R223 and R224: a data frame is rendered as its class, identifier and display sequence, anything else
as its raw bytes in forward order with its class, and each counts one. -/
def Obligations.DumpRendersAndCounts : Prop :=
  ∀ (s : State) (raw : List Byte) (tau : Nat), s.params.maxLen ≠ 0 → s.phase = .awaitDecoded raw tau →
    (∀ d, s.port = .response ⟨.ok, .decoded d⟩ →
      step s = .next { s with
        port := .idle
        phase := .dumpTop
        dump := { s.dump with count := s.dump.count + 1 }
        seen := s.seen ++ [.dataFrame tau d.cls d.id d.disp] }) ∧
    (∀ c, s.port = .response ⟨.notADataFrame, .classified c⟩ →
      step s = .next { s with
        port := .idle
        phase := .dumpTop
        dump := { s.dump with count := s.dump.count + 1 }
        seen := s.seen ++ [.unknownFrame tau (some c) raw] })

/-- The top of a Dump Loop iteration (R221, R224): the flag, then the limit; a limit of 0 receives nothing. -/
def Obligations.DumpChecksFlagThenLimit : Prop :=
  ∀ (s : State) (sig : Bool) (more : List Bool), s.params.maxLen ≠ 0 → s.port = .idle → s.phase = .dumpTop →
    s.env.signals = sig :: more →
    ∃ t, step s = .next t ∧ t.port = .idle ∧ t.dump = s.dump ∧
      ((s.cancel = true ∨ sig = true) → t.phase = .ended .stopped) ∧
      (s.cancel = false → sig = false → ∀ l, s.dump.limit = some l → l ≤ s.dump.count →
        t.phase = .ended .limitReached) ∧
      (s.cancel = false → sig = false → (∀ l, s.dump.limit = some l → s.dump.count < l) → t.phase = .receiveTop)

/-- A whole Dump Loop iteration on a well-formed data frame: with the frame's bytes arriving one by one, no
cancellation and a limit not reached, the run delivers the identifier and the display sequence, counts one frame,
and stands at the loop's top with an empty buffer (R203, R221 to R224, R134, R167). That the loop runs with the
instance's own `MAX_LEN` where that is not 32 is the model's inference (log entry 20). -/
def Obligations.DumpDeliversDataFrame : Prop :=
  ∀ (s : State) (c r2 r3 e : Byte) (mid : List Byte) (tau : Nat) (more : List Nat) (reads : List (Option Byte))
    (sigs : List Bool),
    s.wasReset = true → s.port = .idle → s.phase = .dumpTop → s.asmBuf = [] → s.cancel = false →
    s.params.seqMax = none → mid.length + 5 ≤ s.params.maxLen →
    c.toNat / 16 = 0xC → c.toNat % 16 = mid.length → 1 ≤ mid.length → mid.length ≤ 8 →
    (∀ l, s.dump.limit = some l → s.dump.count < l) →
    s.env.reads = ([0xAA, c, r2, r3] ++ mid ++ [e]).map some ++ reads →
    s.env.signals = List.replicate (mid.length + 6) false ++ sigs → s.env.stamps = tau :: more →
    runSteps (1 + 3 * (mid.length + 5) + 2) s =
      .next { s with
        dump := { s.dump with count := s.dump.count + 1 }
        seen := s.seen ++
          [.dataFrame tau .data (BitVec.ofNat 16 (r3.toNat * 256 + r2.toNat)) (mid.reverse ++ [r3, r2])]
        env := { s.env with reads := reads, signals := sigs, stamps := more } }
end

