-- ==== Sys2Proof/Laws/State.lean ====
section
/-! SUPPORT. One lemma for each field and each named operation on the state: what the field reads afterwards. All
true by unfolding the operation once, so that no later proof unfolds a record update. -/

namespace Sys2Proof.Machine

/-! ## `respond` -/

@[simp] theorem State.respond_params (s : State) (st : Status) (res : Results) : (s.respond st res).params = s.params := rfl
@[simp] theorem State.respond_wasReset (s : State) (st : Status) (res : Results) : (s.respond st res).wasReset = s.wasReset := rfl
@[simp] theorem State.respond_asmBuf (s : State) (st : Status) (res : Results) : (s.respond st res).asmBuf = s.asmBuf := rfl
@[simp] theorem State.respond_port (s : State) (st : Status) (res : Results) : (s.respond st res).port = .response ⟨st, res⟩ := rfl
@[simp] theorem State.respond_cancel (s : State) (st : Status) (res : Results) : (s.respond st res).cancel = s.cancel := rfl
@[simp] theorem State.respond_inj (s : State) (st : Status) (res : Results) : (s.respond st res).inj = s.inj := rfl
@[simp] theorem State.respond_dump (s : State) (st : Status) (res : Results) : (s.respond st res).dump = s.dump := rfl
@[simp] theorem State.respond_phase (s : State) (st : Status) (res : Results) : (s.respond st res).phase = s.phase := rfl
@[simp] theorem State.respond_script (s : State) (st : Status) (res : Results) : (s.respond st res).script = s.script := rfl
@[simp] theorem State.respond_seen (s : State) (st : Status) (res : Results) : (s.respond st res).seen = s.seen := rfl
@[simp] theorem State.respond_link (s : State) (st : Status) (res : Results) : (s.respond st res).link = s.link := rfl
@[simp] theorem State.respond_env (s : State) (st : Status) (res : Results) : (s.respond st res).env = s.env := rfl

/-! ## `raise` -/

@[simp] theorem State.raise_params (s : State) (e : Status) (info : Results) : (s.raise e info).params = s.params := rfl
@[simp] theorem State.raise_wasReset (s : State) (e : Status) (info : Results) : (s.raise e info).wasReset = s.wasReset := rfl
@[simp] theorem State.raise_asmBuf (s : State) (e : Status) (info : Results) : (s.raise e info).asmBuf = s.asmBuf := rfl
@[simp] theorem State.raise_port (s : State) (e : Status) (info : Results) : (s.raise e info).port = .response ⟨e, info⟩ := rfl
@[simp] theorem State.raise_cancel (s : State) (e : Status) (info : Results) : (s.raise e info).cancel = s.cancel := rfl
@[simp] theorem State.raise_inj (s : State) (e : Status) (info : Results) : (s.raise e info).inj = s.inj := rfl
@[simp] theorem State.raise_dump (s : State) (e : Status) (info : Results) : (s.raise e info).dump = s.dump := rfl
@[simp] theorem State.raise_phase (s : State) (e : Status) (info : Results) : (s.raise e info).phase = s.phase := rfl
@[simp] theorem State.raise_script (s : State) (e : Status) (info : Results) : (s.raise e info).script = s.script := rfl
@[simp] theorem State.raise_seen (s : State) (e : Status) (info : Results) : (s.raise e info).seen = s.seen := rfl
@[simp] theorem State.raise_link (s : State) (e : Status) (info : Results) : (s.raise e info).link = s.link := rfl
@[simp] theorem State.raise_env (s : State) (e : Status) (info : Results) : (s.raise e info).env = s.env := rfl

/-! ## `setBuf` -/

@[simp] theorem State.setBuf_params (s : State) (b : List Byte) : (s.setBuf b).params = s.params := rfl
@[simp] theorem State.setBuf_wasReset (s : State) (b : List Byte) : (s.setBuf b).wasReset = s.wasReset := rfl
@[simp] theorem State.setBuf_asmBuf (s : State) (b : List Byte) : (s.setBuf b).asmBuf = b := rfl
@[simp] theorem State.setBuf_port (s : State) (b : List Byte) : (s.setBuf b).port = s.port := rfl
@[simp] theorem State.setBuf_cancel (s : State) (b : List Byte) : (s.setBuf b).cancel = s.cancel := rfl
@[simp] theorem State.setBuf_inj (s : State) (b : List Byte) : (s.setBuf b).inj = s.inj := rfl
@[simp] theorem State.setBuf_dump (s : State) (b : List Byte) : (s.setBuf b).dump = s.dump := rfl
@[simp] theorem State.setBuf_phase (s : State) (b : List Byte) : (s.setBuf b).phase = s.phase := rfl
@[simp] theorem State.setBuf_script (s : State) (b : List Byte) : (s.setBuf b).script = s.script := rfl
@[simp] theorem State.setBuf_seen (s : State) (b : List Byte) : (s.setBuf b).seen = s.seen := rfl
@[simp] theorem State.setBuf_link (s : State) (b : List Byte) : (s.setBuf b).link = s.link := rfl
@[simp] theorem State.setBuf_env (s : State) (b : List Byte) : (s.setBuf b).env = s.env := rfl

/-! ## `applyReset` -/

@[simp] theorem State.applyReset_params (s : State) : (s.applyReset).params = s.params := rfl
@[simp] theorem State.applyReset_wasReset (s : State) : (s.applyReset).wasReset = true := rfl
@[simp] theorem State.applyReset_asmBuf (s : State) : (s.applyReset).asmBuf = [] := rfl
@[simp] theorem State.applyReset_port (s : State) : (s.applyReset).port = s.port := rfl
@[simp] theorem State.applyReset_cancel (s : State) : (s.applyReset).cancel = s.cancel := rfl
@[simp] theorem State.applyReset_inj (s : State) : (s.applyReset).inj = s.inj := rfl
@[simp] theorem State.applyReset_dump (s : State) : (s.applyReset).dump = s.dump := rfl
@[simp] theorem State.applyReset_phase (s : State) : (s.applyReset).phase = s.phase := rfl
@[simp] theorem State.applyReset_script (s : State) : (s.applyReset).script = s.script := rfl
@[simp] theorem State.applyReset_seen (s : State) : (s.applyReset).seen = s.seen := rfl
@[simp] theorem State.applyReset_link (s : State) : (s.applyReset).link = s.link := rfl
@[simp] theorem State.applyReset_env (s : State) : (s.applyReset).env = s.env := rfl

/-! ## `issue` -/

@[simp] theorem State.issue_params (s : State) (r : Request) : (s.issue r).params = s.params := rfl
@[simp] theorem State.issue_wasReset (s : State) (r : Request) : (s.issue r).wasReset = s.wasReset := rfl
@[simp] theorem State.issue_asmBuf (s : State) (r : Request) : (s.issue r).asmBuf = s.asmBuf := rfl
@[simp] theorem State.issue_port (s : State) (r : Request) : (s.issue r).port = .request r := rfl
@[simp] theorem State.issue_cancel (s : State) (r : Request) : (s.issue r).cancel = s.cancel := rfl
@[simp] theorem State.issue_inj (s : State) (r : Request) : (s.issue r).inj = s.inj := rfl
@[simp] theorem State.issue_dump (s : State) (r : Request) : (s.issue r).dump = s.dump := rfl
@[simp] theorem State.issue_phase (s : State) (r : Request) : (s.issue r).phase = s.phase := rfl
@[simp] theorem State.issue_script (s : State) (r : Request) : (s.issue r).script = s.script := rfl
@[simp] theorem State.issue_seen (s : State) (r : Request) : (s.issue r).seen = s.seen := rfl
@[simp] theorem State.issue_link (s : State) (r : Request) : (s.issue r).link = s.link := rfl
@[simp] theorem State.issue_env (s : State) (r : Request) : (s.issue r).env = s.env := rfl

/-! ## `call` -/

@[simp] theorem State.call_params (s : State) (i : Instr) (p : Phase) : (s.call i p).params = s.params := rfl
@[simp] theorem State.call_wasReset (s : State) (i : Instr) (p : Phase) : (s.call i p).wasReset = s.wasReset := rfl
@[simp] theorem State.call_asmBuf (s : State) (i : Instr) (p : Phase) : (s.call i p).asmBuf = s.asmBuf := rfl
@[simp] theorem State.call_port (s : State) (i : Instr) (p : Phase) : (s.call i p).port = .request (encode i) := rfl
@[simp] theorem State.call_cancel (s : State) (i : Instr) (p : Phase) : (s.call i p).cancel = s.cancel := rfl
@[simp] theorem State.call_inj (s : State) (i : Instr) (p : Phase) : (s.call i p).inj = s.inj := rfl
@[simp] theorem State.call_dump (s : State) (i : Instr) (p : Phase) : (s.call i p).dump = s.dump := rfl
@[simp] theorem State.call_phase (s : State) (i : Instr) (p : Phase) : (s.call i p).phase = p := rfl
@[simp] theorem State.call_script (s : State) (i : Instr) (p : Phase) : (s.call i p).script = s.script := rfl
@[simp] theorem State.call_seen (s : State) (i : Instr) (p : Phase) : (s.call i p).seen = s.seen := rfl
@[simp] theorem State.call_link (s : State) (i : Instr) (p : Phase) : (s.call i p).link = s.link := rfl
@[simp] theorem State.call_env (s : State) (i : Instr) (p : Phase) : (s.call i p).env = s.env := rfl

/-! ## `take` -/

@[simp] theorem State.take_params (s : State) : (s.take).params = s.params := rfl
@[simp] theorem State.take_wasReset (s : State) : (s.take).wasReset = s.wasReset := rfl
@[simp] theorem State.take_asmBuf (s : State) : (s.take).asmBuf = s.asmBuf := rfl
@[simp] theorem State.take_port (s : State) : (s.take).port = .idle := rfl
@[simp] theorem State.take_cancel (s : State) : (s.take).cancel = s.cancel := rfl
@[simp] theorem State.take_inj (s : State) : (s.take).inj = s.inj := rfl
@[simp] theorem State.take_dump (s : State) : (s.take).dump = s.dump := rfl
@[simp] theorem State.take_phase (s : State) : (s.take).phase = s.phase := rfl
@[simp] theorem State.take_script (s : State) : (s.take).script = s.script := rfl
@[simp] theorem State.take_seen (s : State) : (s.take).seen = s.seen := rfl
@[simp] theorem State.take_link (s : State) : (s.take).link = s.link := rfl
@[simp] theorem State.take_env (s : State) : (s.take).env = s.env := rfl

/-! ## `goTo` -/

@[simp] theorem State.goTo_params (s : State) (p : Phase) : (s.goTo p).params = s.params := rfl
@[simp] theorem State.goTo_wasReset (s : State) (p : Phase) : (s.goTo p).wasReset = s.wasReset := rfl
@[simp] theorem State.goTo_asmBuf (s : State) (p : Phase) : (s.goTo p).asmBuf = s.asmBuf := rfl
@[simp] theorem State.goTo_port (s : State) (p : Phase) : (s.goTo p).port = s.port := rfl
@[simp] theorem State.goTo_cancel (s : State) (p : Phase) : (s.goTo p).cancel = s.cancel := rfl
@[simp] theorem State.goTo_inj (s : State) (p : Phase) : (s.goTo p).inj = s.inj := rfl
@[simp] theorem State.goTo_dump (s : State) (p : Phase) : (s.goTo p).dump = s.dump := rfl
@[simp] theorem State.goTo_phase (s : State) (p : Phase) : (s.goTo p).phase = p := rfl
@[simp] theorem State.goTo_script (s : State) (p : Phase) : (s.goTo p).script = s.script := rfl
@[simp] theorem State.goTo_seen (s : State) (p : Phase) : (s.goTo p).seen = s.seen := rfl
@[simp] theorem State.goTo_link (s : State) (p : Phase) : (s.goTo p).link = s.link := rfl
@[simp] theorem State.goTo_env (s : State) (p : Phase) : (s.goTo p).env = s.env := rfl

/-! ## `observe` -/

@[simp] theorem State.observe_params (s : State) (o : Observation) : (s.observe o).params = s.params := rfl
@[simp] theorem State.observe_wasReset (s : State) (o : Observation) : (s.observe o).wasReset = s.wasReset := rfl
@[simp] theorem State.observe_asmBuf (s : State) (o : Observation) : (s.observe o).asmBuf = s.asmBuf := rfl
@[simp] theorem State.observe_port (s : State) (o : Observation) : (s.observe o).port = s.port := rfl
@[simp] theorem State.observe_cancel (s : State) (o : Observation) : (s.observe o).cancel = s.cancel := rfl
@[simp] theorem State.observe_inj (s : State) (o : Observation) : (s.observe o).inj = s.inj := rfl
@[simp] theorem State.observe_dump (s : State) (o : Observation) : (s.observe o).dump = s.dump := rfl
@[simp] theorem State.observe_phase (s : State) (o : Observation) : (s.observe o).phase = s.phase := rfl
@[simp] theorem State.observe_script (s : State) (o : Observation) : (s.observe o).script = s.script := rfl
@[simp] theorem State.observe_seen (s : State) (o : Observation) : (s.observe o).seen = s.seen ++ [o] := rfl
@[simp] theorem State.observe_link (s : State) (o : Observation) : (s.observe o).link = s.link := rfl
@[simp] theorem State.observe_env (s : State) (o : Observation) : (s.observe o).env = s.env := rfl

/-! ## `withFetchWord` -/

@[simp] theorem State.withFetchWord_params (s : State) (nbits w : Nat) : (s.withFetchWord nbits w).params = s.params := rfl
@[simp] theorem State.withFetchWord_wasReset (s : State) (nbits w : Nat) : (s.withFetchWord nbits w).wasReset = true := rfl
@[simp] theorem State.withFetchWord_asmBuf (s : State) (nbits w : Nat) : (s.withFetchWord nbits w).asmBuf = s.asmBuf := rfl
@[simp] theorem State.withFetchWord_port (s : State) (nbits w : Nat) : (s.withFetchWord nbits w).port = .request (requestOfTableWord nbits w) := rfl
@[simp] theorem State.withFetchWord_cancel (s : State) (nbits w : Nat) : (s.withFetchWord nbits w).cancel = s.cancel := rfl
@[simp] theorem State.withFetchWord_inj (s : State) (nbits w : Nat) : (s.withFetchWord nbits w).inj = s.inj := rfl
@[simp] theorem State.withFetchWord_dump (s : State) (nbits w : Nat) : (s.withFetchWord nbits w).dump = s.dump := rfl
@[simp] theorem State.withFetchWord_phase (s : State) (nbits w : Nat) : (s.withFetchWord nbits w).phase = s.phase := rfl
@[simp] theorem State.withFetchWord_script (s : State) (nbits w : Nat) : (s.withFetchWord nbits w).script = s.script := rfl
@[simp] theorem State.withFetchWord_seen (s : State) (nbits w : Nat) : (s.withFetchWord nbits w).seen = s.seen := rfl
@[simp] theorem State.withFetchWord_link (s : State) (nbits w : Nat) : (s.withFetchWord nbits w).link = s.link := rfl
@[simp] theorem State.withFetchWord_env (s : State) (nbits w : Nat) : (s.withFetchWord nbits w).env = s.env := rfl

/-! ## `readTransport` -/

@[simp] theorem State.readTransport_params (s : State) : (s.readTransport.2).params = s.params := rfl
@[simp] theorem State.readTransport_wasReset (s : State) : (s.readTransport.2).wasReset = s.wasReset := rfl
@[simp] theorem State.readTransport_asmBuf (s : State) : (s.readTransport.2).asmBuf = s.asmBuf := rfl
@[simp] theorem State.readTransport_port (s : State) : (s.readTransport.2).port = s.port := rfl
@[simp] theorem State.readTransport_cancel (s : State) : (s.readTransport.2).cancel = s.cancel := rfl
@[simp] theorem State.readTransport_inj (s : State) : (s.readTransport.2).inj = s.inj := rfl
@[simp] theorem State.readTransport_dump (s : State) : (s.readTransport.2).dump = s.dump := rfl
@[simp] theorem State.readTransport_phase (s : State) : (s.readTransport.2).phase = s.phase := rfl
@[simp] theorem State.readTransport_script (s : State) : (s.readTransport.2).script = s.script := rfl
@[simp] theorem State.readTransport_seen (s : State) : (s.readTransport.2).seen = s.seen := rfl
@[simp] theorem State.readTransport_link (s : State) : (s.readTransport.2).link = s.link := rfl

/-! ## `writeTransport` -/

@[simp] theorem State.writeTransport_params (s : State) (f : List Byte) : ((s.writeTransport f).2).params = s.params := rfl
@[simp] theorem State.writeTransport_wasReset (s : State) (f : List Byte) : ((s.writeTransport f).2).wasReset = s.wasReset := rfl
@[simp] theorem State.writeTransport_asmBuf (s : State) (f : List Byte) : ((s.writeTransport f).2).asmBuf = s.asmBuf := rfl
@[simp] theorem State.writeTransport_port (s : State) (f : List Byte) : ((s.writeTransport f).2).port = s.port := rfl
@[simp] theorem State.writeTransport_cancel (s : State) (f : List Byte) : ((s.writeTransport f).2).cancel = s.cancel := rfl
@[simp] theorem State.writeTransport_inj (s : State) (f : List Byte) : ((s.writeTransport f).2).inj = s.inj := rfl
@[simp] theorem State.writeTransport_dump (s : State) (f : List Byte) : ((s.writeTransport f).2).dump = s.dump := rfl
@[simp] theorem State.writeTransport_phase (s : State) (f : List Byte) : ((s.writeTransport f).2).phase = s.phase := rfl
@[simp] theorem State.writeTransport_script (s : State) (f : List Byte) : ((s.writeTransport f).2).script = s.script := rfl
@[simp] theorem State.writeTransport_seen (s : State) (f : List Byte) : ((s.writeTransport f).2).seen = s.seen := rfl

/-! ## `openTransport` -/

@[simp] theorem State.openTransport_params (s : State) (path : List Byte) (baud : Nat) : ((s.openTransport path baud).2).params = s.params := rfl
@[simp] theorem State.openTransport_wasReset (s : State) (path : List Byte) (baud : Nat) : ((s.openTransport path baud).2).wasReset = s.wasReset := rfl
@[simp] theorem State.openTransport_asmBuf (s : State) (path : List Byte) (baud : Nat) : ((s.openTransport path baud).2).asmBuf = s.asmBuf := rfl
@[simp] theorem State.openTransport_port (s : State) (path : List Byte) (baud : Nat) : ((s.openTransport path baud).2).port = s.port := rfl
@[simp] theorem State.openTransport_cancel (s : State) (path : List Byte) (baud : Nat) : ((s.openTransport path baud).2).cancel = s.cancel := rfl
@[simp] theorem State.openTransport_inj (s : State) (path : List Byte) (baud : Nat) : ((s.openTransport path baud).2).inj = s.inj := rfl
@[simp] theorem State.openTransport_dump (s : State) (path : List Byte) (baud : Nat) : ((s.openTransport path baud).2).dump = s.dump := rfl
@[simp] theorem State.openTransport_phase (s : State) (path : List Byte) (baud : Nat) : ((s.openTransport path baud).2).phase = s.phase := rfl
@[simp] theorem State.openTransport_script (s : State) (path : List Byte) (baud : Nat) : ((s.openTransport path baud).2).script = s.script := rfl
@[simp] theorem State.openTransport_seen (s : State) (path : List Byte) (baud : Nat) : ((s.openTransport path baud).2).seen = s.seen := rfl

/-! ## `drawByte` -/

@[simp] theorem State.drawByte_params (s : State) : (s.drawByte.2).params = s.params := rfl
@[simp] theorem State.drawByte_wasReset (s : State) : (s.drawByte.2).wasReset = s.wasReset := rfl
@[simp] theorem State.drawByte_asmBuf (s : State) : (s.drawByte.2).asmBuf = s.asmBuf := rfl
@[simp] theorem State.drawByte_port (s : State) : (s.drawByte.2).port = s.port := rfl
@[simp] theorem State.drawByte_cancel (s : State) : (s.drawByte.2).cancel = s.cancel := rfl
@[simp] theorem State.drawByte_inj (s : State) : (s.drawByte.2).inj = s.inj := rfl
@[simp] theorem State.drawByte_dump (s : State) : (s.drawByte.2).dump = s.dump := rfl
@[simp] theorem State.drawByte_phase (s : State) : (s.drawByte.2).phase = s.phase := rfl
@[simp] theorem State.drawByte_script (s : State) : (s.drawByte.2).script = s.script := rfl
@[simp] theorem State.drawByte_seen (s : State) : (s.drawByte.2).seen = s.seen := rfl
@[simp] theorem State.drawByte_link (s : State) : (s.drawByte.2).link = s.link := rfl

/-! ## `stamp` -/

@[simp] theorem State.stamp_params (s : State) : (s.stamp.2).params = s.params := rfl
@[simp] theorem State.stamp_wasReset (s : State) : (s.stamp.2).wasReset = s.wasReset := rfl
@[simp] theorem State.stamp_asmBuf (s : State) : (s.stamp.2).asmBuf = s.asmBuf := rfl
@[simp] theorem State.stamp_port (s : State) : (s.stamp.2).port = s.port := rfl
@[simp] theorem State.stamp_cancel (s : State) : (s.stamp.2).cancel = s.cancel := rfl
@[simp] theorem State.stamp_inj (s : State) : (s.stamp.2).inj = s.inj := rfl
@[simp] theorem State.stamp_dump (s : State) : (s.stamp.2).dump = s.dump := rfl
@[simp] theorem State.stamp_phase (s : State) : (s.stamp.2).phase = s.phase := rfl
@[simp] theorem State.stamp_script (s : State) : (s.stamp.2).script = s.script := rfl
@[simp] theorem State.stamp_seen (s : State) : (s.stamp.2).seen = s.seen := rfl
@[simp] theorem State.stamp_link (s : State) : (s.stamp.2).link = s.link := rfl

/-! ## `checkCancel` -/

@[simp] theorem State.checkCancel_params (s : State) : (s.checkCancel).params = s.params := rfl
@[simp] theorem State.checkCancel_wasReset (s : State) : (s.checkCancel).wasReset = s.wasReset := rfl
@[simp] theorem State.checkCancel_asmBuf (s : State) : (s.checkCancel).asmBuf = s.asmBuf := rfl
@[simp] theorem State.checkCancel_port (s : State) : (s.checkCancel).port = s.port := rfl
@[simp] theorem State.checkCancel_inj (s : State) : (s.checkCancel).inj = s.inj := rfl
@[simp] theorem State.checkCancel_dump (s : State) : (s.checkCancel).dump = s.dump := rfl
@[simp] theorem State.checkCancel_phase (s : State) : (s.checkCancel).phase = s.phase := rfl
@[simp] theorem State.checkCancel_script (s : State) : (s.checkCancel).script = s.script := rfl
@[simp] theorem State.checkCancel_seen (s : State) : (s.checkCancel).seen = s.seen := rfl
@[simp] theorem State.checkCancel_link (s : State) : (s.checkCancel).link = s.link := rfl

end Sys2Proof.Machine
end

