-- ==== Sys2Proof/Laws/Ops.lean ====
section
/-! SUPPORT. What each shared operation can do, said once: the environment's answers, the operand bound, and the
fields of a command word. -/

namespace Sys2Proof.Machine

/-! ## The environment's answers -/

@[simp] theorem draw_cons {α : Type} (a : α) (rest : List α) (free : Nat → α) (n : Nat) :
    draw (a :: rest) free n = (a, rest, n) := rfl

@[simp] theorem draw_nil {α : Type} (free : Nat → α) (n : Nat) : draw [] free n = (free n, [], n + 1) := rfl

/-- A read changes nothing but the environment. -/
theorem State.readTransport_spec (s : State) :
    ∃ r e, s.readTransport = (r, { s with env := e }) := ⟨_, _, rfl⟩

/-- A scheduled read is the answer, and leaves the rest of the schedule. -/
theorem State.readTransport_scheduled (s : State) (r : Option Byte) (more : List (Option Byte))
    (h : s.env.reads = r :: more) :
    s.readTransport = (r, { s with env := { s.env with reads := more } }) := by
  simp [State.readTransport, h]

/-- A write records the frame with its answer, and changes nothing else but the environment. -/
theorem State.writeTransport_spec (s : State) (f : List Byte) :
    ∃ w e, s.writeTransport f =
      (w, { s with env := e, link := { s.link with writes := s.link.writes ++ [(f, w)] } }) := ⟨_, _, rfl⟩

/-- A scheduled write answer. -/
theorem State.writeTransport_scheduled (s : State) (f : List Byte) (w : WriteResult) (more : List WriteResult)
    (h : s.env.writes = w :: more) :
    s.writeTransport f = (w, { s with
      env := { s.env with writes := more }
      link := { s.link with writes := s.link.writes ++ [(f, w)] } }) := by
  simp [State.writeTransport, h]

/-- An open records the device where it succeeded, and changes nothing else but the environment. -/
theorem State.openTransport_spec (s : State) (path : List Byte) (baud : Nat) :
    ∃ ok e, s.openTransport path baud =
      (ok, { s with
        env := e
        link := { s.link with opened := if ok then some (path, baud) else s.link.opened } }) := ⟨_, _, rfl⟩

/-- A scheduled open answer. -/
theorem State.openTransport_scheduled (s : State) (path : List Byte) (baud : Nat) (ok : Bool) (more : List Bool)
    (h : s.env.opens = ok :: more) :
    s.openTransport path baud = (ok, { s with
      env := { s.env with opens := more }
      link := { s.link with opened := if ok then some (path, baud) else s.link.opened } }) := by
  simp [State.openTransport, h]

/-- A timestamp changes nothing but the environment. -/
theorem State.stamp_spec (s : State) : ∃ t e, s.stamp = (t, { s with env := e }) := ⟨_, _, rfl⟩

/-- A scheduled timestamp. -/
theorem State.stamp_scheduled (s : State) (t : Nat) (more : List Nat) (h : s.env.stamps = t :: more) :
    s.stamp = (t, { s with env := { s.env with stamps := more } }) := by
  simp [State.stamp, h]

/-- A check of the flag changes the flag and the environment only, and never clears the flag. -/
theorem State.checkCancel_spec (s : State) :
    ∃ c e, s.checkCancel = { s with cancel := s.cancel || c, env := e } := ⟨_, _, rfl⟩

/-- A check with a scheduled signal. -/
theorem State.checkCancel_scheduled (s : State) (sig : Bool) (more : List Bool) (h : s.env.signals = sig :: more) :
    s.checkCancel = { s with cancel := s.cancel || sig, env := { s.env with signals := more } } := by
  simp [State.checkCancel, h]

/-- Drawing bytes gives as many as asked, and changes nothing but the environment. -/
theorem State.drawBytes_spec (s : State) (n : Nat) :
    ∃ p e, s.drawBytes n = (p, { s with env := e }) ∧ p.length = n := by
  induction n generalizing s with
  | zero => exact ⟨[], s.env, rfl, rfl⟩
  | succ n ih =>
    obtain ⟨p, e, h, hp⟩ := ih s.drawByte.2
    exact ⟨s.drawByte.1 :: p, e, by simp only [State.drawBytes, h]; rfl, by simp [hp]⟩

/-- Drawing bytes while enough are scheduled takes them in order. -/
theorem State.drawBytes_scheduled (s : State) (p more : List Byte) (h : s.env.randoms = p ++ more) :
    s.drawBytes p.length = (p, { s with env := { s.env with randoms := more } }) := by
  induction p generalizing s with
  | nil =>
    have h' : more = s.env.randoms := by simpa using h.symm
    subst h'
    rfl
  | cons b p ih =>
    have hb : s.drawByte = (b, { s with env := { s.env with randoms := p ++ more } }) := by
      simp [State.drawByte, h]
    have := ih { s with env := { s.env with randoms := p ++ more } } rfl
    simp only [List.length_cons, State.drawBytes, hb, this]

/-- Mutation keeps the payload's length, and changes nothing but the environment. -/
theorem mutate_spec (s : State) (m : PayloadMode) (p : List Byte) :
    ∃ q e, mutate s m p = (q, { s with env := e }) ∧ q.length = p.length := by
  cases m with
  | random => exact s.drawBytes_spec p.length
  | incremental => exact ⟨p.map (· + 1), s.env, rfl, by simp⟩
  | fixed => exact ⟨p, s.env, rfl, rfl⟩

/-! ## The operand bound -/

/-- The block takes an operand exactly where it is within `SEQ_MAX` (R8). -/
theorem State.takes_eq_withinBound (s : State) (q : List Byte) : s.takes q = withinBound s.params.seqMax q := by
  cases h : s.params.seqMax <;> simp [State.takes, withinBound, h]

/-- An unbounded instance takes every operand. -/
theorem State.takes_of_unbounded (s : State) (q : List Byte) (h : s.params.seqMax = none) : s.takes q = true := by
  simp [State.takes, h]

end Sys2Proof.Machine

namespace Sys2Proof

/-! ## The fields of a command word -/

theorem toNat_wordOf (a b c d : Byte) :
    (wordOf a b c d).toNat = a.toNat * 2 ^ 24 + b.toNat * 2 ^ 16 + c.toNat * 2 ^ 8 + d.toNat := by
  have hb := b.isLt
  have hc := c.isLt
  have hd := d.isLt
  simp only [wordOf, BitVec.toNat_append]
  rw [← Nat.shiftLeft_add_eq_or_of_lt hd, ← Nat.shiftLeft_add_eq_or_of_lt hc, ← Nat.shiftLeft_add_eq_or_of_lt hb]
  simp only [Nat.shiftLeft_eq]
  omega

theorem toNat_opField (w : Word) : (opField w).toNat = w.toNat / 2 ^ 24 := by
  have := w.isLt
  simp only [opField, BitVec.extractLsb'_toNat, Nat.shiftRight_eq_div_pow]
  omega

theorem toNat_byte2 (w : Word) : (byte2 w).toNat = w.toNat / 2 ^ 16 % 2 ^ 8 := by
  simp [byte2, BitVec.extractLsb'_toNat, Nat.shiftRight_eq_div_pow]

theorem toNat_byte1 (w : Word) : (byte1 w).toNat = w.toNat / 2 ^ 8 % 2 ^ 8 := by
  simp [byte1, BitVec.extractLsb'_toNat, Nat.shiftRight_eq_div_pow]

theorem toNat_byte0 (w : Word) : (byte0 w).toNat = w.toNat % 2 ^ 8 := by
  simp [byte0, BitVec.extractLsb'_toNat]

@[simp] theorem opField_wordOf (a b c d : Byte) : opField (wordOf a b c d) = a := by
  apply BitVec.eq_of_toNat_eq
  rw [toNat_opField, toNat_wordOf]
  have := b.isLt
  have := c.isLt
  have := d.isLt
  omega

@[simp] theorem byte2_wordOf (a b c d : Byte) : byte2 (wordOf a b c d) = b := by
  apply BitVec.eq_of_toNat_eq
  rw [toNat_byte2, toNat_wordOf]
  have := b.isLt
  have := c.isLt
  have := d.isLt
  omega

@[simp] theorem byte1_wordOf (a b c d : Byte) : byte1 (wordOf a b c d) = c := by
  apply BitVec.eq_of_toNat_eq
  rw [toNat_byte1, toNat_wordOf]
  have := c.isLt
  have := d.isLt
  omega

@[simp] theorem byte0_wordOf (a b c d : Byte) : byte0 (wordOf a b c d) = d := by
  apply BitVec.eq_of_toNat_eq
  rw [toNat_byte0, toNat_wordOf]
  have := d.isLt
  omega

/-- What "the reserved bits are zero" means for each format, as a number (R70). -/
theorem reservedClear_iff (f : Format) (w : Word) : f.reservedClear w = true ↔
    match f with
    | .none => w.toNat % 2 ^ 24 = 0
    | .sequence => w.toNat % 2 ^ 24 = 0
    | .sequenceCount => w.toNat / 2 ^ 8 % 2 ^ 16 = 0
    | .byte => w.toNat / 2 ^ 8 % 2 ^ 16 = 0
    | .configuration => True
    | .data => w.toNat / 2 ^ 17 % 2 ^ 7 = 0 := by
  cases f <;>
    simp [Format.reservedClear, ← BitVec.toNat_inj, BitVec.extractLsb'_toNat, Nat.shiftRight_eq_div_pow]

/-- An operation is found at exactly its own code (R71). -/
theorem ofCode_eq_some (c : Byte) (op : Op) : Op.ofCode c = some op ↔ c = op.code := by
  constructor
  · intro h
    unfold Op.ofCode at h
    repeat' split at h
    all_goals first
      | (cases h; subst_vars; rfl)
      | cases h
  · rintro rfl
    cases op <;> rfl

end Sys2Proof
end

