-- ==== Sys2Proof/Laws/Units.lean ====
section
/-! SUPPORT. One lemma for each unit that says what it can answer, and the inversion of `exec`, `serve` and `step`. -/

namespace Sys2Proof.Machine

/-! ## Nibbles and digits -/

theorem highNibble_eq_C (b : Byte) : highNibble b = 0xC ↔ b.toNat / 16 = 0xC := by
  have := b.isLt
  have hC : (0xC : Nibble).toNat = 12 := rfl
  rw [← BitVec.toNat_inj, hC, highNibble, BitVec.extractLsb'_toNat, Nat.shiftRight_eq_div_pow]
  omega

theorem toNat_lowNibble (b : Byte) : (lowNibble b).toNat = b.toNat % 16 := by
  simp [lowNibble, BitVec.extractLsb'_toNat]

theorem length_pairDigits : ∀ d : List Nibble, (pairDigits d).length = d.length / 2
  | [] => rfl
  | [_] => by simp [pairDigits]
  | _ :: _ :: rest => by
    simp only [pairDigits, List.length_cons, length_pairDigits rest]
    omega

/-- The i-th byte of paired digits is made of digits `2 i` and `2 i + 1`, the first high (R115). -/
theorem getElem?_pairDigits : ∀ (d : List Nibble) (i : Nat), i < d.length / 2 →
    ∃ hi lo, d[2 * i]? = some hi ∧ d[2 * i + 1]? = some lo ∧ (pairDigits d)[i]? = some (byteOfDigits hi lo)
  | [], i, h => by simp at h
  | [_], i, h => by simp at h
  | hi :: lo :: rest, 0, _ => ⟨hi, lo, rfl, rfl, rfl⟩
  | _ :: _ :: rest, i + 1, h => by
    have h' : i < rest.length / 2 := by
      simp only [List.length_cons] at h
      omega
    obtain ⟨hi, lo, h₁, h₂, h₃⟩ := getElem?_pairDigits rest i h'
    exact ⟨hi, lo, h₁, h₂, h₃⟩

/-! ## The completion rule -/

theorem complete_stray (b0 : Byte) (rest : List Byte) (h : b0 ≠ 0xAA) : complete (b0 :: rest) = true := by
  cases rest with
  | nil => simpa [complete] using h
  | cons b1 rest => rw [complete, if_pos h]

theorem complete_echo (rest : List Byte) : complete (0xAA :: 0x55 :: rest) = decide (20 ≤ rest.length + 2) := by
  simp [complete]

theorem complete_data (b1 : Byte) (rest : List Byte) (h : b1.toNat / 16 = 0xC) :
    complete (0xAA :: b1 :: rest) =
      (decide (b1.toNat % 16 ≤ 8) && decide (b1.toNat % 16 + 5 ≤ rest.length + 2)) := by
  have h55 : b1 ≠ 0x55 := by
    rintro rfl
    simp at h
  have hC := (highNibble_eq_C b1).2 h
  rw [complete, if_neg (by simp), if_neg h55, if_pos hC, toNat_lowNibble]

theorem complete_other (b1 : Byte) (rest : List Byte) (h55 : b1 ≠ 0x55) (h : b1.toNat / 16 ≠ 0xC) :
    complete (0xAA :: b1 :: rest) = true := by
  have hC : highNibble b1 ≠ 0xC := fun e => h ((highNibble_eq_C b1).1 e)
  rw [complete, if_neg (by simp), if_neg h55, if_neg hC]

/-! ## What each instruction answers -/

/-- Decoded fields are of class DATA (R167, R169). -/
theorem decodeDataFrame_cls {raw : List Byte} {d : DataFields} (h : decodeDataFrame raw = some d) :
    d.cls = .data := by
  unfold decodeDataFrame at h
  split at h
  · simp only [Option.ite_none_right_eq_some, Option.some.injEq] at h
    rw [← h.2]
  · cases h

/-- ASM_BYTE ends in one of its three outcomes (R134). -/
theorem execAsmByte_cases (x : Byte) (s : State) :
    (complete (s.asmBuf ++ [x]) = true ∧
      execAsmByte x s = .next ((s.setBuf []).respond .frame (.frame (s.asmBuf ++ [x])))) ∨
    (complete (s.asmBuf ++ [x]) = false ∧ s.params.maxLen ≤ s.asmBuf.length + 1 ∧
      execAsmByte x s = .next ((s.setBuf []).respond .frameOverflow .nothing)) ∨
    (complete (s.asmBuf ++ [x]) = false ∧ s.asmBuf.length + 1 < s.params.maxLen ∧
      execAsmByte x s = .next ((s.setBuf (s.asmBuf ++ [x])).respond .pending .nothing)) := by
  cases hc : complete (s.asmBuf ++ [x]) with
  | true => exact .inl ⟨rfl, by simp [execAsmByte, hc]⟩
  | false =>
    by_cases hl : s.params.maxLen ≤ s.asmBuf.length + 1
    · exact .inr (.inl ⟨rfl, hl, by simp [execAsmByte, hc, hl, State.raise]⟩)
    · exact .inr (.inr ⟨rfl, by omega, by simp [execAsmByte, hc, hl]⟩)

/-- Every instruction answers, with the port holding a response and at most the buffer changed beside it. -/
theorem exec_answers (i : Instr) (s : State) :
    ∃ r b, exec i s = .next { s with asmBuf := b, port := .response r } ∧
      (i.op ∉ [Op.asmByte, Op.asmCancel] → b = s.asmBuf) := by
  cases i with
  | cksum q =>
    simp only [exec, execCksum]
    split <;> exact ⟨_, _, rfl, fun _ => rfl⟩
  | hexid q =>
    simp only [exec, execHexid]
    split
    · split <;> exact ⟨_, _, rfl, fun _ => rfl⟩
    · exact ⟨_, _, rfl, fun _ => rfl⟩
  | hexpl m q =>
    simp only [exec, execHexpl]
    split <;> exact ⟨_, _, rfl, fun _ => rfl⟩
  | asmByte x =>
    rcases execAsmByte_cases x s with ⟨_, h⟩ | ⟨_, _, h⟩ | ⟨_, _, h⟩ <;>
      exact ⟨_, _, h, fun n => absurd (by simp [Instr.op]) n⟩
  | asmEmpty => exact ⟨_, _, rfl, fun _ => rfl⟩
  | asmCancel => exact ⟨_, _, rfl, fun n => absurd (by simp [Instr.op]) n⟩
  | cfgbld a b c => exact ⟨_, _, rfl, fun _ => rfl⟩
  | datbld e m l p =>
    simp only [exec, execDatbld]
    split <;> exact ⟨_, _, rfl, fun _ => rfl⟩
  | datdec q =>
    simp only [exec, execDatdec]
    split
    · split <;> exact ⟨_, _, rfl, fun _ => rfl⟩
    · exact ⟨_, _, rfl, fun _ => rfl⟩

/-! ## One step -/

/-- What a step that goes on was: the block serving a request, the host taking a response, or the host acting. -/
theorem step_cases {s t : State} (h : step s = .next t) :
    s.params.maxLen ≠ 0 ∧
    ((∃ q, s.port = .request q ∧ s.wasReset = true ∧ serve q s = .next t) ∨
      (∃ r, s.port = .response r ∧ hostTake r s = some t) ∨
      (s.port = .idle ∧ t = hostAct s)) := by
  unfold step at h
  split at h
  · cases h
  · rename_i hm
    refine ⟨hm, ?_⟩
    split at h
    · rename_i q hp
      refine .inl ⟨q, hp, ?_, h⟩
      by_contra hw
      simp [serve, hw] at h
    · rename_i r hp
      split at h
      · rename_i s' ht
        cases h
        exact .inr (.inl ⟨r, hp, ht⟩)
      · cases h
    · rename_i hp
      cases h
      exact .inr (.inr ⟨hp, rfl⟩)

/-- What serving a request can do: an ill-formed one answers ILLEGAL_OP and nothing else; any other runs. -/
theorem serve_cases {s t : State} {q : Request} (h : serve q s = .next t) :
    s.wasReset = true ∧ ((∃ e, decode q = .error e ∧ t = s.raise .illegalOp) ∨ ∃ i, decode q = .ok i ∧ exec i s = .next t) := by
  unfold serve at h
  split at h
  · rename_i hw
    refine ⟨hw, ?_⟩
    split at h
    · rename_i i hd
      exact .inr ⟨i, hd, h⟩
    · rename_i e hd
      cases h
      exact .inl ⟨e, hd, rfl⟩
  · cases h

theorem step_of_serving {s : State} {q : Request} (h : Serving s q) : step s = serve q s := by
  obtain ⟨hm, _, hp⟩ := h
  simp [step, hm, hp]

theorem step_of_response {s t : State} {r : Response} (hm : s.params.maxLen ≠ 0) (hp : s.port = .response r)
    (ht : hostTake r s = some t) : step s = .next t := by
  simp [step, hm, hp, ht]

theorem step_of_idle {s : State} (hm : s.params.maxLen ≠ 0) (hp : s.port = .idle) : step s = .next (hostAct s) := by
  simp [step, hm, hp]

end Sys2Proof.Machine
end

