-- ==== Sys2Proof/Laws/Decode.lean ====
section
/-! SUPPORT. What decoding gives for a word whose operation number is known, and what serving an ill-formed request
gives. -/

namespace Sys2Proof

open Sys2Proof.Machine

/-- The extended bit of a word written from four bytes (R70). -/
theorem extField_wordOf (a c d : Byte) (e : Bool) : extField (wordOf a (if e then 1 else 0) c d) = e := by
  have hw := toNat_wordOf a (if e then 1 else 0) c d
  have hc := c.isLt
  have hd := d.isLt
  have : extField (wordOf a (if e then 1 else 0) c d) = true ↔ e = true := by
    unfold extField
    simp only [beq_iff_eq, ← BitVec.toNat_inj, BitVec.extractLsb'_toNat, Nat.shiftRight_eq_div_pow, hw]
    cases e <;> simp <;> omega
  cases e <;> simp_all

/-- The operation field, where the operation number is an operation's code (R69, R71). -/
theorem opField_of_opNumber {w : Word} {op : Op} (h : opNumber w = op.code.toNat) : opField w = op.code := by
  apply BitVec.eq_of_toNat_eq
  rw [toNat_opField]
  exact h

/-- Decoding a request whose operation is known: reserved bits first, then the sequence (R72). -/
theorem decode_of_opNumber {w : Word} (seq : List Byte) {op : Op} (h : opNumber w = op.code.toNat) :
    decode ⟨w, seq⟩ =
      if op.format.reservedClear w then
        if op.format.takesSequence || seq.isEmpty then .ok (operandsOf w seq op) else .error .sequenceNotTaken
      else .error .reservedBits := by
  simp [decode, opField_of_opNumber h, (ofCode_eq_some op.code op).2 rfl]

/-- A request the decoder rejects gets ILLEGAL_OP and changes nothing (R72, R73). -/
theorem illegalRequest_of_error {r : Request} {e : DecodeError} (h : decode r = .error e) : IllegalRequest r := by
  intro s hs
  rw [step_of_serving hs]
  simp [serve, hs.2.1, h, State.raise, State.respond]

/-- A request that decodes is served by its instruction's meaning. -/
theorem step_of_decode {s : State} {r : Request} {i : Instr} (hm : s.params.maxLen ≠ 0) (hw : s.wasReset = true)
    (hp : s.port = .request r) (hd : decode r = .ok i) : step s = exec i s := by
  rw [step_of_serving ⟨hm, hw, hp⟩]
  simp [serve, hw, hd]

end Sys2Proof
end

