-- ==== Sys2Proof/Laws/HostModel.lean ====
section
/-! SUPPORT. What each move of the host can change, runs of several steps, and how the host invariant is
established. -/

namespace Sys2Proof.Machine

/-! ## Runs -/

@[simp] theorem runSteps_zero (s : State) : runSteps 0 s = .next s := rfl

theorem runSteps_next {s t : State} (k : Nat) (h : step s = .next t) : runSteps (k + 1) s = runSteps k t := by
  simp [runSteps, h]

/-- A step of a run in which the host takes a response. -/
theorem runSteps_take {s t : State} (k : Nat) (r : Response) (hm : s.params.maxLen ≠ 0) (hp : s.port = .response r)
    (ht : hostTake r s = some t) : runSteps (k + 1) s = runSteps k t :=
  runSteps_next k (step_of_response hm hp ht)

/-! ## What a step can change -/

/-- Serving a request changes the buffer and the port at most. -/
theorem serve_frame {s t : State} {q : Request} (h : serve q s = .next t) :
    ∃ r b, t = { s with asmBuf := b, port := .response r } := by
  obtain ⟨_, ⟨_, _, rfl⟩ | ⟨i, _, he⟩⟩ := serve_cases h
  · exact ⟨⟨.illegalOp, .nothing⟩, s.asmBuf, rfl⟩
  · obtain ⟨r, b, hb, _⟩ := exec_answers i s
    rw [hb] at he
    cases he
    exact ⟨r, b, rfl⟩

/-- Writing a frame: the port is free, the write is recorded with its answer, and the place follows from it. -/
theorem writeFrame_spec (f : List Byte) (p : Phase) (s : State) :
    ∃ w e, writeFrame f p s = { s with
      port := .idle
      env := e
      link := { s.link with writes := s.link.writes ++ [(f, w)] }
      phase := if wroteWhole f w then p else .ended .transportWriteFailed } := by
  obtain ⟨w, e, h⟩ := s.take.writeTransport_spec f
  refine ⟨w, e, ?_⟩
  unfold writeFrame
  simp only [h]
  split <;> simp_all [State.goTo]

/-- Writing a frame with a scheduled answer. -/
theorem writeFrame_scheduled (f : List Byte) (p : Phase) (s : State) (w : WriteResult) (more : List WriteResult)
    (h : s.env.writes = w :: more) :
    writeFrame f p s = { s with
      port := .idle
      env := { s.env with writes := more }
      link := { s.link with writes := s.link.writes ++ [(f, w)] }
      phase := if wroteWhole f w then p else .ended .transportWriteFailed } := by
  simp only [writeFrame, State.writeTransport_scheduled s.take f w more h]
  split <;> simp_all [State.goTo]

/-- Taking a response leaves the block alone. -/
theorem hostTake_frame {r : Response} {s t : State} (h : hostTake r s = some t) :
    t.params = s.params ∧ t.asmBuf = s.asmBuf ∧ t.wasReset = s.wasReset := by
  unfold hostTake at h
  split at h
  case h_1 => cases h; exact ⟨rfl, rfl, rfl⟩
  case h_2 => unfold takeIdentifier at h; split at h <;> (repeat' split at h) <;> cases h <;> exact ⟨rfl, rfl, rfl⟩
  case h_3 => unfold takePayload at h; split at h <;> (repeat' split at h) <;> cases h <;> exact ⟨rfl, rfl, rfl⟩
  case h_4 m _ =>
    unfold takeConfiguration at h
    split at h <;> (repeat' split at h)
    all_goals cases h
    rename_i f _ _
    obtain ⟨w, e, hw⟩ := writeFrame_spec f (loopTop m) s
    rw [hw]
    exact ⟨rfl, rfl, rfl⟩
  case h_5 =>
    unfold takeDataFrame at h
    split at h <;> (repeat' split at h)
    all_goals cases h
    rename_i f _ _
    obtain ⟨w, e, hw⟩ := writeFrame_spec f .injectTop s
    rw [hw]
    exact ⟨rfl, rfl, rfl⟩
  case h_6 => unfold takeCancelled at h; (split at h <;> cases h); exact ⟨rfl, rfl, rfl⟩
  case h_7 => unfold takeEmpty at h; (split at h <;> cases h); exact ⟨rfl, rfl, rfl⟩
  case h_8 => unfold takeByte at h; split at h <;> (repeat' split at h) <;> cases h <;> exact ⟨rfl, rfl, rfl⟩
  case h_9 => unfold takeDecoded at h; (split at h <;> cases h); exact ⟨rfl, rfl, rfl⟩
  all_goals cases h

/-- Acting changes no parameter and writes nothing to the transport, and touches the buffer only by a reset. -/
theorem hostAct_frame (s : State) :
    (hostAct s).params = s.params ∧ (hostAct s).link.writes = s.link.writes ∧
      ((hostAct s).asmBuf = s.asmBuf ∨ ((hostAct s).asmBuf = [] ∧
        ((∃ a, s.phase = .start a) ∨ (s.phase = .scripted ∧ s.script.head? = some .reset)))) := by
  unfold hostAct
  split <;> try exact ⟨rfl, rfl, .inl rfl⟩
  · unfold hostScripted
    split
    · exact ⟨rfl, rfl, .inl rfl⟩
    · exact ⟨rfl, rfl, .inr ⟨rfl, .inr ⟨by assumption, by simp_all⟩⟩⟩
    · exact ⟨rfl, rfl, .inl rfl⟩
  · exact ⟨rfl, rfl, .inr ⟨rfl, .inl ⟨_, by assumption⟩⟩⟩
  · unfold hostLookUpSpeed
    split <;> (try split) <;> exact ⟨rfl, rfl, .inl rfl⟩
  · unfold hostOpen
    simp only []
    split <;> exact ⟨rfl, rfl, .inl rfl⟩
  · unfold hostInjectTop
    simp only []
    split <;> (try split) <;> exact ⟨rfl, rfl, .inl rfl⟩
  · unfold hostInjectBuild
    obtain ⟨q, e, h, _⟩ := mutate_spec s s.inj.mode s.inj.payload
    simp [h]
  · unfold hostDumpTop
    simp only []
    split <;> (try split) <;> exact ⟨rfl, rfl, .inl rfl⟩
  · unfold hostReceiveTop
    simp only []
    split <;> (try split) <;> exact ⟨rfl, rfl, .inl rfl⟩

/-! ## The host invariant -/

/-- A host that has the port idle and waits for nothing. -/
theorem HostInv.of_idle {t : State} (hp : t.port = .idle) (hw : waiting t.phase = false)
    (hj : injecting t.phase = true → 1 ≤ t.inj.payload.length ∧ t.inj.payload.length ≤ 8)
    (hr : beforeReset t.phase = false → t.wasReset = true) : HostInv t :=
  ⟨by simp [hw], fun _ => .inr hp, hj, hr⟩

/-- A host that has just issued the instruction its phase asks. -/
theorem HostInv.of_call {t : State} {i : Instr} (hp : t.port = .request (encode i)) (hd : decode (encode i) = .ok i)
    (hw : waiting t.phase = true) (ha : Asked t.phase i)
    (hj : injecting t.phase = true → 1 ≤ t.inj.payload.length ∧ t.inj.payload.length ≤ 8)
    (hr : t.wasReset = true) : HostInv t :=
  ⟨fun _ => .inl ⟨_, i, hp, hd, ha⟩, by simp [hw], hj, fun _ => hr⟩

/-- What a host asks gets a response it can meet. -/
theorem exec_expected (s : State) (p : Phase) (i : Instr) (ha : Asked p i) :
    ∃ r b, exec i s = .next { s with asmBuf := b, port := .response r } ∧ Expected i r := by
  have hx : (∃ q, i = .hexid q) ∨ (∃ m q, i = .hexpl m q) ∨ (∃ a b c, i = .cfgbld a b c) ∨
      (∃ e m l p, i = .datbld e m l p ∧ p.length ≤ 8) ∨ i = .asmCancel ∨ i = .asmEmpty ∨ (∃ x, i = .asmByte x) ∨
      (∃ q, i = .datdec q) := by
    cases p <;> simp only [Asked] at ha <;> simp_all
  rcases hx with ⟨q, rfl⟩ | ⟨m, q, rfl⟩ | ⟨a, b, c, rfl⟩ | ⟨e, m, l, p, rfl, h8⟩ | rfl | rfl | ⟨x, rfl⟩ | ⟨q, rfl⟩
  · simp only [exec, execHexid]
    split <;> (try split) <;> exact ⟨_, s.asmBuf, rfl, by constructor, by simp, by simp [Instr.op]⟩
  · simp only [exec, execHexpl]
    split
    · exact ⟨_, s.asmBuf, rfl, .hexpl _ _ _ _ (by simp [payloadBytes]), by simp, by simp⟩
    · exact ⟨_, s.asmBuf, rfl, .illegal _, by simp, by simp [Instr.op]⟩
  · exact ⟨_, s.asmBuf, rfl, .cfgbld _ _ _ _ rfl, by simp, by simp⟩
  · simp only [exec, execDatbld]
    rw [if_neg (by omega)]
    refine ⟨_, s.asmBuf, rfl, .datbld _ _ _ _ _ ?_ ?_, by simp, by simp⟩ <;> simp [dataFrame]
    omega
  · exact ⟨_, [], rfl, .asmCancel, by simp, by simp⟩
  · exact ⟨_, s.asmBuf, rfl, .asmEmpty, by simp, by simp⟩
  · rcases execAsmByte_cases x s with ⟨_, h⟩ | ⟨_, _, h⟩ | ⟨_, _, h⟩ <;>
      exact ⟨_, _, h, by constructor, by simp, by simp⟩
  · simp only [exec, execDatdec]
    split <;> (try split)
    · rename_i d hd
      exact ⟨_, s.asmBuf, rfl, .datdec _ d (decodeDataFrame_cls hd), by simp, by simp⟩
    · refine ⟨_, s.asmBuf, rfl, .datdecOther _ _ ?_, by simp, by simp⟩
      unfold otherClass
      split <;> (try split) <;> simp
    · exact ⟨_, s.asmBuf, rfl, .illegal _, by simp, by simp [Instr.op]⟩

end Sys2Proof.Machine
end

