-- ==== Sys2Proof/Laws/PerInstr.lean ====
section
/-! SUPPORT. The family `WordForm`: for each instruction, its encoded word carries the operation code of its row and
no reserved bit, a sequence stands with it only where the format takes one, and the instance's bound looks at its
sequence operand alone. -/

namespace Sys2Proof.Laws.WordForm

open Sys2Proof

/-- The operation field is the instruction's code, the reserved bits are zero, and a sequence is given only to a
format that takes one (R69 to R72); an instance without a bound accepts it (R8). -/
def Statement (i : Instr) : Prop :=
  opField (encode i).w = i.op.code ∧ i.op.format.reservedClear (encode i).w = true ∧
    (i.op.format.takesSequence = false → (encode i).seq = []) ∧ i.wellFormed none = true

theorem cksum (bytes : List Byte) : Statement (.cksum bytes) :=
  ⟨by simp [encode, Instr.op], show Format.sequence.reservedClear (wordOf Op.cksum.code 0 0 0) = true by decide, by simp [Instr.op, Op.format, Format.takesSequence], rfl⟩

theorem hexid (str : List Byte) : Statement (.hexid str) :=
  ⟨by simp [encode, Instr.op], show Format.sequence.reservedClear (wordOf Op.hexid.code 0 0 0) = true by decide, by simp [Instr.op, Op.format, Format.takesSequence], rfl⟩

theorem hexpl (maxLen : Byte) (str : List Byte) : Statement (.hexpl maxLen str) := by
  refine ⟨by simp [encode, Instr.op], ?_, by simp [Instr.op, Op.format, Format.takesSequence], rfl⟩
  have := maxLen.isLt
  rw [reservedClear_iff]
  simp only [encode, Instr.op, Op.format, toNat_wordOf]
  simp [Op.code]
  omega

theorem asmByte (x : Byte) : Statement (.asmByte x) := by
  refine ⟨by simp [encode, Instr.op], ?_, fun _ => rfl, rfl⟩
  have := x.isLt
  rw [reservedClear_iff]
  simp only [encode, Instr.op, Op.format, toNat_wordOf]
  simp [Op.code]
  omega

theorem asmEmpty : Statement .asmEmpty :=
  ⟨by simp [encode, Instr.op], rfl, fun _ => rfl, rfl⟩

theorem asmCancel : Statement .asmCancel :=
  ⟨by simp [encode, Instr.op], rfl, fun _ => rfl, rfl⟩

theorem cfgbld (speed ftype mode : Byte) : Statement (.cfgbld speed ftype mode) :=
  ⟨by simp [encode, Instr.op], rfl, fun _ => rfl, rfl⟩

theorem datbld (ext : Bool) (idMsb idLsb : Byte) (payload : List Byte) :
    Statement (.datbld ext idMsb idLsb payload) := by
  refine ⟨by simp [encode, Instr.op], ?_, by simp [Instr.op, Op.format, Format.takesSequence], rfl⟩
  have := idMsb.isLt
  have := idLsb.isLt
  rw [reservedClear_iff]
  simp only [encode, Instr.op, Op.format, toNat_wordOf]
  cases ext <;> simp [Op.code] <;> omega

theorem datdec (raw : List Byte) : Statement (.datdec raw) :=
  ⟨by simp [encode, Instr.op], show Format.sequence.reservedClear (wordOf Op.datdec.code 0 0 0) = true by decide, by simp [Instr.op, Op.format, Format.takesSequence], rfl⟩

end Sys2Proof.Laws.WordForm
end

