-- ==== Sys2Proof/Laws/Streams.lean ====
section
/-! SUPPORT. Streams given to the assembler, one byte and one run of pending bytes at a time; and the fields of data
frames. -/

namespace Sys2Proof.Machine

/-! ## Streams -/

/-- A byte that leaves the buffer incomplete and below `MAX_LEN` (R134). -/
theorem feed_pending {s : State} {x : Byte} (xs : List Byte) (h : complete (s.asmBuf ++ [x]) = false)
    (hl : s.asmBuf.length + 1 < s.params.maxLen) :
    feed s (x :: xs) = (⟨.pending, .nothing⟩ :: (feed ((s.setBuf (s.asmBuf ++ [x])).respond .pending .nothing) xs).1,
      (feed ((s.setBuf (s.asmBuf ++ [x])).respond .pending .nothing) xs).2) := by
  rcases execAsmByte_cases x s with ⟨h1, _⟩ | ⟨_, h1, _⟩ | ⟨_, _, e⟩
  · simp_all
  · omega
  · simp [feed, exec, e]

/-- A byte that completes a frame (R134). -/
theorem feed_frame {s : State} {x : Byte} (xs : List Byte) (h : complete (s.asmBuf ++ [x]) = true) :
    feed s (x :: xs) = (⟨.frame, .frame (s.asmBuf ++ [x])⟩ ::
        (feed ((s.setBuf []).respond .frame (.frame (s.asmBuf ++ [x]))) xs).1,
      (feed ((s.setBuf []).respond .frame (.frame (s.asmBuf ++ [x]))) xs).2) := by
  rcases execAsmByte_cases x s with ⟨_, e⟩ | ⟨h1, _, _⟩ | ⟨h1, _, _⟩
  · simp [feed, exec, e]
  · simp_all
  · simp_all

/-- A byte that overflows the buffer (R134). -/
theorem feed_overflow {s : State} {x : Byte} (xs : List Byte) (h : complete (s.asmBuf ++ [x]) = false)
    (hl : s.params.maxLen ≤ s.asmBuf.length + 1) :
    feed s (x :: xs) = (⟨.frameOverflow, .nothing⟩ :: (feed ((s.setBuf []).respond .frameOverflow .nothing) xs).1,
      (feed ((s.setBuf []).respond .frameOverflow .nothing) xs).2) := by
  rcases execAsmByte_cases x s with ⟨h1, _⟩ | ⟨_, _, e⟩ | ⟨_, h1, _⟩
  · simp_all
  · simp [feed, exec, e]
  · omega

/-- A run of bytes that leaves every buffer on the way incomplete and below `MAX_LEN` gets PENDING throughout. -/
theorem feed_run_pending (s : State) (xs ys : List Byte)
    (h : ∀ p q, xs = p ++ q → p ≠ [] → complete (s.asmBuf ++ p) = false)
    (hl : s.asmBuf.length + xs.length < s.params.maxLen) :
    ∃ t, t.asmBuf = s.asmBuf ++ xs ∧ t.params = s.params ∧
      feed s (xs ++ ys) = (List.replicate xs.length ⟨.pending, .nothing⟩ ++ (feed t ys).1, (feed t ys).2) := by
  induction xs generalizing s with
  | nil => exact ⟨s, by simp, rfl, by simp⟩
  | cons x xs ih =>
    have h1 := h [x] xs rfl (by simp)
    simp only [List.length_cons] at hl
    obtain ⟨t, h3, h4, h5⟩ := ih ((s.setBuf (s.asmBuf ++ [x])).respond .pending .nothing)
      (fun p q hpq _ => by simpa using h (x :: p) q (by simp [hpq]) (by simp)) (by simp; omega)
    refine ⟨t, by simpa using h3, by simpa using h4, ?_⟩
    rw [List.cons_append, feed_pending _ h1 (by omega), h5]
    simp [List.replicate_succ]

/-! ## Data frames -/

/-- The info byte of a data frame as a number (R63, R164). -/
theorem toNat_infoByte (ext : Bool) (n : Nat) (h : n ≤ 8) :
    (infoByte ext n).toNat = 0xC0 + (if ext then 0x20 else 0) + n := by
  interval_cases n <;> cases ext <;> rfl

/-- The 16-bit identifier as a number: `id_msb` is its high byte (R44). -/
theorem identifier_eq (lsb msb : Byte) :
    ((msb.zeroExtend 16 <<< 8) ||| lsb.zeroExtend 16 : BitVec 16) = BitVec.ofNat 16 (msb.toNat * 256 + lsb.toNat) := by
  have hl := lsb.isLt
  have hm := msb.isLt
  apply BitVec.eq_of_toNat_eq
  simp only [BitVec.toNat_or, BitVec.toNat_shiftLeft, BitVec.truncate_eq_setWidth, BitVec.toNat_setWidth,
    BitVec.toNat_ofNat]
  have e₁ : (msb.toNat % 2 ^ 16) <<< 8 % 2 ^ 16 = msb.toNat <<< 8 := by
    rw [Nat.shiftLeft_eq]
    omega
  have e₂ : lsb.toNat % 2 ^ 16 = lsb.toNat := by omega
  rw [e₁, e₂, ← Nat.shiftLeft_add_eq_or_of_lt hl, Nat.shiftLeft_eq]
  omega

/-- A second byte with high nibble C has bit 5 clear (R170). -/
theorem extFlag_of_highNibble_C (info : Byte) (h : info.toNat / 16 = 0xC) : extFlag info = false := by
  have : info.toNat / 32 % 2 = 0 := by omega
  rw [extFlag, BitVec.getLsbD, Nat.testBit, Nat.shiftRight_eq_div_pow, Nat.and_comm, Nat.and_one_is_mod]
  simp [this]

/-- DATBLD on a payload of at most 8 bytes (R164). -/
theorem exec_datbld (s : State) (ext : Bool) (m l : Byte) (p : List Byte) (h : p.length ≤ 8) :
    exec (.datbld ext m l p) s = .next { s with
      port := .response ⟨.ok, .frame ([0xAA, infoByte ext p.length, l, m] ++ p ++ [0x55])⟩ } := by
  simp [exec, execDatbld, show ¬ 8 < p.length by omega, dataFrame, State.respond]

end Sys2Proof.Machine
end

