-- ==== Sys2Proof/Tests/Slice0.lean ====
section
/-! SUPPORT. Tests: ill-formed terms refused, words of the spec decoded, one step per test on small states, and for
each statement with hypotheses a state and operands that meet them. Expected values are those of
spec/95_test_vectors.md (its S and P rows) unless a comment says otherwise. -/

namespace Sys2Proof.Tests

open Sys2Proof Sys2Proof.Machine

/-! ## Well-formedness refuses ill-formed terms -/

theorem test_refuses_maxLen_zero : Params.wellFormed ⟨0, none, Config.generalKnowledgeCodes⟩ = false := by decide

theorem test_accepts_maxLen_one : Params.wellFormed ⟨1, none, Config.generalKnowledgeCodes⟩ = true := by decide

theorem test_refuses_bitrate_out_of_range :
    Params.wellFormed ⟨32, none, { Config.generalKnowledgeCodes with speed := [(4999, 0x0D)] }⟩ = false := by decide

theorem test_refuses_long_cksum : (Instr.cksum [1, 2, 3]).wellFormed (some 2) = false := by decide

theorem test_refuses_long_hexid : (Instr.hexid [0x31, 0x32]).wellFormed (some 1) = false := by decide

theorem test_refuses_long_hexpl : (Instr.hexpl 8 [0x31, 0x32]).wellFormed (some 1) = false := by decide

theorem test_refuses_long_datdec : (Instr.datdec [0xAA]).wellFormed (some 0) = false := by decide

theorem test_accepts_datbld_beyond_bound : (Instr.datbld false 1 0x23 [0x11]).wellFormed (some 0) = true := by decide

/-! ## Decoding: words written out from R70 and R71 -/

theorem test_decode_cksum : decode ⟨0x01000000, [0xFF, 0x01]⟩ = .ok (.cksum [0xFF, 0x01]) := by decide

theorem test_decode_hexid : decode ⟨0x02000000, [0x61]⟩ = .ok (.hexid [0x61]) := by decide

theorem test_decode_hexpl : decode ⟨0x03000002, [0x31, 0x41]⟩ = .ok (.hexpl 2 [0x31, 0x41]) := by decide

theorem test_decode_asmByte : decode ⟨0x10000055, []⟩ = .ok (.asmByte 0x55) := by decide

theorem test_decode_asmEmpty : decode ⟨0x11000000, []⟩ = .ok .asmEmpty := by decide

theorem test_decode_asmCancel : decode ⟨0x12000000, []⟩ = .ok .asmCancel := by decide

theorem test_decode_cfgbld : decode ⟨0x200C0203, []⟩ = .ok (.cfgbld 0x0C 0x02 0x03) := by decide

theorem test_decode_datbld : decode ⟨0x210107FF, [0x01]⟩ = .ok (.datbld true 0x07 0xFF [0x01]) := by decide

theorem test_decode_datdec : decode ⟨0x22000000, [0x00]⟩ = .ok (.datdec [0x00]) := by decide

theorem test_rejects_unassigned : decode ⟨0x13000000, []⟩ = .error .unassignedOp := by decide

theorem test_rejects_reserved_bits : decode ⟨0x10000155, []⟩ = .error .reservedBits := by decide

theorem test_rejects_datbld_bit17 : decode ⟨0x21020123, [0x11]⟩ = .error .reservedBits := by decide

theorem test_rejects_cfgbld_sequence : decode ⟨0x20030100, [0x00]⟩ = .error .sequenceNotTaken := by decide

theorem test_encode_datbld : encode (.datbld true 0x01 0x23 [0x11, 0x22]) = ⟨0x21010123, [0x11, 0x22]⟩ := by decide

theorem test_decodeTableWord : decodeTableWord 32 0x21000123 = some (.datbld false 0x01 0x23 []) := by decide

/-! ## One step on a small state -/

/-- The machine after reset with a buffer and a request on the port. -/
def serving (buf : List Byte) (r : Request) : State := { State.reset with asmBuf := buf, port := .request r }

/-- The response a step leaves, and the buffer. -/
def answer (s : State) : Option (Response × List Byte) :=
  match step s with
  | .next t =>
    match t.port with
    | .response r => some (r, t.asmBuf)
    | _ => none
  | _ => none

theorem test_cksum_configuration :
    answer (serving [] ⟨0x01000000, [0x12, 0x03, 0x01, 0x00, 0x01]⟩) = some (⟨.ok, .sum 0x17⟩, []) := by decide

theorem test_cksum_wraps : answer (serving [0xAA] ⟨0x01000000, [0xFF, 0xFF]⟩) = some (⟨.ok, .sum 0xFE⟩, [0xAA]) := by
  decide

theorem test_hexid_three_digits :
    answer (serving [] ⟨0x02000000, [0x31, 0x41, 0x32]⟩) = some (⟨.ok, .identifier 0xA2 0x01⟩, []) := by decide

theorem test_hexid_non_hex :
    answer (serving [] ⟨0x02000000, [0x30, 0x78, 0x31]⟩) = some (⟨.invalidIdentifier, .nothing⟩, []) := by decide

theorem test_hexpl_truncates :
    answer (serving [] ⟨0x03000002, [0x31, 0x41, 0x32, 0x42, 0x33, 0x43]⟩) =
      some (⟨.ok, .bytes [0x1A, 0x2B] true⟩, []) := by decide

theorem test_hexpl_prefix_kept :
    answer (serving [] ⟨0x03000008, [0x30, 0x78, 0x31, 0x41]⟩) = some (⟨.ok, .bytes [0x01] false⟩, []) := by decide

theorem test_asmByte_completes :
    answer (serving [0xAA, 0xC2, 0x23, 0x01, 0x11, 0x22] ⟨0x10000055, []⟩) =
      some (⟨.frame, .frame [0xAA, 0xC2, 0x23, 0x01, 0x11, 0x22, 0x55]⟩, []) := by decide

theorem test_asmByte_overflows :
    answer (serving (0xAA :: 0xCC :: List.replicate 29 0x00) ⟨0x10000000, []⟩) =
      some (⟨.frameOverflow, .nothing⟩, []) := by decide

theorem test_asmEmpty_keeps_buffer : answer (serving [0xAA] ⟨0x11000000, []⟩) = some (⟨.pending, .nothing⟩, [0xAA]) := by
  decide

theorem test_asmCancel_clears_buffer :
    answer (serving [0xAA, 0xC2, 0x23] ⟨0x12000000, []⟩) = some (⟨.cancelled, .nothing⟩, []) := by decide

theorem test_cfgbld_frame :
    answer (serving [] ⟨0x20030100, []⟩) = some (⟨.ok, .frame [0xAA, 0x55, 0x12, 0x03, 0x01, 0x00, 0x00, 0x00, 0x00,
      0x00, 0x00, 0x00, 0x00, 0x00, 0x01, 0x00, 0x00, 0x00, 0x00, 0x17]⟩, []) := by decide

theorem test_cfgbld_checksum_wraps :
    answer (serving [] ⟨0x20FFFFFF, []⟩) = some (⟨.ok, .frame [0xAA, 0x55, 0x12, 0xFF, 0xFF, 0x00, 0x00, 0x00, 0x00,
      0x00, 0x00, 0x00, 0x00, 0xFF, 0x01, 0x00, 0x00, 0x00, 0x00, 0x10]⟩, []) := by decide

theorem test_datbld_extended :
    answer (serving [] ⟨0x21010123, [0x11, 0x22]⟩) =
      some (⟨.ok, .frame [0xAA, 0xE2, 0x23, 0x01, 0x11, 0x22, 0x55]⟩, []) := by decide

theorem test_datbld_nine_bytes :
    answer (serving [] ⟨0x21000101, [0, 1, 2, 3, 4, 5, 6, 7, 8]⟩) = some (⟨.payloadTooLong, .nothing⟩, []) := by decide

theorem test_datdec_data :
    answer (serving [] ⟨0x22000000, [0xAA, 0xC2, 0x23, 0x01, 0x11, 0x22, 0x55]⟩) = some (⟨.ok, .decoded
      { cls := .data, idLsb := 0x23, idMsb := 0x01, id := 0x0123, ext := false, dlc := 2, payload := [0x11, 0x22],
        disp := [0x22, 0x11, 0x01, 0x23] }⟩, []) := by decide

theorem test_datdec_five_bytes :
    answer (serving [] ⟨0x22000000, [0xAA, 0xC0, 0x00, 0x00, 0x55]⟩) =
      some (⟨.notADataFrame, .classified .unknown⟩, []) := by decide

theorem test_illegal_keeps_buffer : answer (serving [0xAA] ⟨0x10000155, []⟩) = some (⟨.illegalOp, .nothing⟩, [0xAA]) := by
  decide

theorem test_withFetchWord_runs_first :
    answer (State.reset.withFetchWord 32 0x100000AA) = some (⟨.pending, .nothing⟩, [0xAA]) := by decide

theorem test_mutate_incremental_wraps :
    (mutate State.reset .incremental [0x7F, 0xFE, 0xFF]).1 = [0x80, 0xFF, 0x00] := by decide

theorem test_mutate_random_takes_draws :
    (mutate { State.reset with env := ⟨[], [], [], [0x05, 0x06, 0x07], [], [], 0⟩ } .random [0x11, 0x22]).1 =
      [0x05, 0x06] := by decide

/-! ## Witnesses: hypotheses that are met together -/

/-- A run with the given loop. -/
def run (bitrate : Nat) (m : RunMode) : RunInputs := ⟨[0x74, 0x74, 0x79], 2000000, bitrate, .standard, .normal, m⟩

/-- The strings of an injecting run. -/
def strings : InjectInputs := ⟨[0x31, 0x32, 0x33], [0x31, 0x31], .incremental, 10⟩

/-- A host that stands in a phase, with the port as given. -/
def standing (p : Phase) (port : Port) : State := { State.reset with phase := p, port := port }

/-- An instance with `SEQ_MAX = 2`. -/
def bounded : State := { State.reset with params := ⟨32, some 2, Config.generalKnowledgeCodes⟩ }

/-- An environment with these scheduled answers. -/
def scheduled (reads : List (Option Byte)) (writes : List WriteResult) (opens : List Bool) (stamps : List Nat)
    (signals : List Bool) : Environment := ⟨reads, writes, opens, [], stamps, signals, 0⟩

theorem witness_EncodeOfDecode : decode ⟨0x21010123, [0x11]⟩ = .ok (.datbld true 0x01 0x23 [0x11]) := by decide

theorem witness_ServedRequestGetsOneResponse : Serving (serving [0xAA] ⟨0x12000000, []⟩) ⟨0x12000000, []⟩ := ⟨by decide, rfl, rfl⟩

theorem witness_UnassignedOpIsIllegal :
    opNumber 0x00000000 = 0x00 ∧ opNumber 0x04000000 = 0x04 ∧ opNumber 0x0F000000 = 0x0F ∧
      opNumber 0x13000000 = 0x13 ∧ opNumber 0x1F000000 = 0x1F ∧ opNumber 0x23000000 = 0x23 ∧
      opNumber 0xFF000000 = 0xFF := by decide

theorem witness_MalformedRequestIsIllegal :
    (opNumber 0x11000001 ∈ [0x01, 0x02, 0x11, 0x12, 0x22] ∧ (0x11000001 : Word).toNat % 2 ^ 24 ≠ 0) ∧
    (opNumber 0x10000155 ∈ [0x03, 0x10] ∧ (0x10000155 : Word).toNat / 2 ^ 8 % 2 ^ 16 ≠ 0) ∧
    (opNumber 0x21020123 = 0x21 ∧ (0x21020123 : Word).toNat / 2 ^ 17 % 2 ^ 7 ≠ 0) ∧
    (opNumber 0x20030100 ∈ [0x10, 0x11, 0x12, 0x20] ∧ ([0x00] : List Byte) ≠ []) := by decide

theorem witness_StepRunsDecodedInstruction :
    Serving (serving [] ⟨0x01000000, [1]⟩) ⟨0x01000000, [1]⟩ ∧ decode ⟨0x01000000, [1]⟩ = .ok (.cksum [1]) :=
  ⟨⟨by decide, rfl, rfl⟩, by decide⟩

theorem witness_OperandBeyondSeqMaxIsIllegal :
    bounded.params.seqMax = some 2 ∧ 2 < ([1, 2, 3] : List Byte).length ∧ State.reset.params.seqMax = none := by decide

theorem witness_bounded_operand_at_its_bound : withinBound bounded.params.seqMax [0x31, 0x32] = true := by decide

theorem witness_CksumAnswersTheSum :
    (opNumber 0x01000001 = 0x01 ∧ (0x01000001 : Word).toNat % 2 ^ 24 ≠ 0) ∧
    (opNumber 0x01000000 = 0x01 ∧ (0x01000000 : Word).toNat % 2 ^ 24 = 0) ∧
    withinBound bounded.params.seqMax [0xFF, 0x01] = true := by decide

theorem witness_ChecksumLaws : State.reset.params.seqMax = none := by decide

theorem witness_HexidDecodesIdentifier :
    (opNumber 0x02800000 = 0x02 ∧ (0x02800000 : Word).toNat % 2 ^ 24 ≠ 0) ∧
    (opNumber 0x02000000 = 0x02 ∧ (0x02000000 : Word).toNat % 2 ^ 24 = 0) ∧
    withinBound State.reset.params.seqMax [0x30, 0x30, 0x30, 0x41] = true ∧
    ([0x30, 0x30, 0x30, 0x41] : List Byte).length ∉ [1, 2, 3] ∧ (∃ ch ∈ ([0x20] : List Byte), hexval ch = none) ∧
    hexval 0x39 = some 9 ∧ hexval 0x41 = some 10 ∧ hexval 0x66 = some 15 := by decide

theorem witness_HexplDecodesPayload :
    (opNumber 0x03000108 = 0x03 ∧ (0x03000108 : Word).toNat / 2 ^ 8 % 2 ^ 16 ≠ 0) ∧
    (opNumber 0x03000008 = 0x03 ∧ (0x03000008 : Word).toNat / 2 ^ 8 % 2 ^ 16 = 0) ∧
    withinBound bounded.params.seqMax [0x31, 0x41] = true ∧
    0 < min (([0x31, 0x41].filterMap hexval).length / 2) (1 : Byte).toNat := by decide

theorem witness_HexplIgnoresOtherCharacters :
    State.reset.params.seqMax = none ∧
      ([0x31, 0x20, 0x47, 0x32].filter fun ch => (hexval ch).isSome) = [0x31, 0x32] := by decide

theorem witness_CompletionRule :
    (0x00 : Byte) ≠ 0xAA ∧ ((0xC8 : Byte).toNat / 16 = 0xC ∧ (0xC8 : Byte).toNat % 16 ≤ 8) ∧
    ((0xC9 : Byte).toNat / 16 = 0xC ∧ 9 ≤ (0xC9 : Byte).toNat % 16) ∧
    ((0xAA : Byte) ≠ 0x55 ∧ (0xAA : Byte).toNat / 16 ≠ 0xC) := by decide

theorem witness_AsmByteAppendsOrEmits :
    (opNumber 0x10000155 = 0x10 ∧ (0x10000155 : Word).toNat / 2 ^ 8 % 2 ^ 16 ≠ 0) ∧
    (opNumber 0x10000055 = 0x10 ∧ (0x10000055 : Word).toNat / 2 ^ 8 % 2 ^ 16 = 0) ∧
    complete ((serving [0xAA] ⟨0, []⟩).asmBuf ++ [0x12]) = true ∧
    (complete ((0xAA :: 0xCF :: List.replicate 29 0x00) ++ [0x00]) = false ∧
      State.reset.params.maxLen ≤ (0xAA :: 0xCF :: List.replicate 29 (0x00 : Byte)).length + 1) ∧
    (complete ((0xAA :: 0xCF :: List.replicate 28 0x00) ++ [0x00]) = false ∧
      (0xAA :: 0xCF :: List.replicate 28 (0x00 : Byte)).length + 1 < State.reset.params.maxLen) := by decide

theorem witness_AsmEmptyLeavesBuffer :
    (opNumber 0x11000001 = 0x11 ∧ (0x11000001 : Word).toNat % 2 ^ 24 ≠ 0) ∧
    (opNumber 0x11000000 = 0x11 ∧ (0x11000000 : Word).toNat % 2 ^ 24 = 0) := by decide

theorem witness_AsmCancelClearsBuffer :
    (opNumber 0x12800000 = 0x12 ∧ (0x12800000 : Word).toNat % 2 ^ 24 ≠ 0) ∧
    (opNumber 0x12000000 = 0x12 ∧ (0x12000000 : Word).toNat % 2 ^ 24 = 0) := by decide

theorem witness_CfgbldBuildsConfigurationFrame : opNumber 0x20FFFFFF = 0x20 ∧ ([0x00] : List Byte) ≠ [] := by decide

theorem witness_DatbldBuildsDataFrame :
    (opNumber 0x21020123 = 0x21 ∧ (0x21020123 : Word).toNat / 2 ^ 17 % 2 ^ 7 ≠ 0) ∧
    (opNumber 0x2101FFFF = 0x21 ∧ (0x2101FFFF : Word).toNat / 2 ^ 17 % 2 ^ 7 = 0) ∧
    ([1, 2, 3, 4, 5, 6, 7, 8] : List Byte).length ≤ 8 ∧ 8 < ([1, 2, 3, 4, 5, 6, 7, 8, 9] : List Byte).length := by decide

theorem witness_DatdecClassifiesAndDecodes :
    (opNumber 0x22000001 = 0x22 ∧ (0x22000001 : Word).toNat % 2 ^ 24 ≠ 0) ∧
    (opNumber 0x22000000 = 0x22 ∧ (0x22000000 : Word).toNat % 2 ^ 24 = 0) ∧
    withinBound State.reset.params.seqMax [0xAA, 0xC1, 0x0A, 0x00, 0x00, 0x77] = true ∧
    (6 ≤ ([0xAA, 0xC1, 0x0A, 0x00, 0x00, 0x77] : List Byte).length ∧ (0xC1 : Byte).toNat / 16 = 0xC) ∧
    ¬ 6 ≤ ([0xAA, 0xC0, 0x00, 0x00, 0x55] : List Byte).length := by decide

/-- `AA 55` and `n` zero bytes. -/
def echo (n : Nat) : List Byte := 0xAA :: 0x55 :: List.replicate n 0x00

/-- The branch of the other classes: a sequence of 20 bytes and its neighbours of 19 and 21 fail the validity test. -/
theorem witness_DatdecClassifiesAndDecodes_otherClasses : ∀ n ∈ [17, 18, 19],
    withinBound State.reset.params.seqMax (echo n) = true ∧ (echo n).length = n + 2 ∧ (echo n)[0]? = some 0xAA ∧
      (echo n)[1]? = some 0x55 ∧ ¬ (6 ≤ (echo n).length ∧ (echo n)[0]? = some 0xAA ∧
        ∃ r1, (echo n)[1]? = some r1 ∧ r1.toNat / 16 = 0xC) := by
  refine fun n hn => ⟨rfl, by simp [echo], rfl, rfl, ?_⟩
  rintro ⟨_, _, r1, h, hC⟩
  have : r1 = 0x55 := by simpa [echo] using h.symm
  subst this
  exact absurd hC (by decide)

/-- COMMAND at 20 bytes (S12's frame has that shape), UNKNOWN at 19 (section 2.7) and at 21 (R169). -/
theorem witness_DatdecClassifiesAndDecodes_command :
    [17, 18, 19].map (fun n => (answer (serving [] ⟨0x22000000, echo n⟩)).map Prod.fst) =
      [some ⟨.notADataFrame, .classified .unknown⟩, some ⟨.notADataFrame, .classified .command⟩,
        some ⟨.notADataFrame, .classified .unknown⟩] := by decide

theorem witness_DatdecDisplayAndUncheckedBytes :
    State.reset.params.seqMax = none ∧ (0xC8 : Byte).toNat / 16 = 0xC ∧ ([0x11] : List Byte) ≠ [] := by decide

theorem witness_DataFrameRoundTrip :
    State.reset.params.seqMax = none ∧ 1 ≤ ([0x11] : List Byte).length ∧
      ([1, 2, 3, 4, 5, 6, 7, 8] : List Byte).length ≤ 8 := by decide

theorem witness_ExtendedAndEmptyFramesAreUnknown :
    State.reset.params.seqMax = none ∧ ([] : List Byte).length ≤ 8 ∧
      ([1, 2, 3, 4, 5, 6, 7, 8] : List Byte).length ≤ 8 := by decide

theorem witness_OtherUnitsArePure :
    (Instr.cksum [1]).op ∉ [Op.asmByte, Op.asmEmpty, Op.asmCancel] ∧
      (serving [0xAA] ⟨0, []⟩).params = State.reset.params := by decide

theorem witness_OnlyResetAndAssemblerChangeBuffer :
    (∃ t, step (serving [0xAA] ⟨0x12000000, []⟩) = .next t ∧ t.asmBuf ≠ [0xAA]) ∧
      (Instr.asmEmpty).op ∉ [Op.asmByte, Op.asmCancel] := ⟨⟨_, rfl, by decide⟩, by decide⟩

theorem witness_BlockIgnoresTheHost :
    ∃ s₁ s₂ t₁ : State, s₁.port = .request ⟨0x12000000, []⟩ ∧ s₂.port = .request ⟨0x12000000, []⟩ ∧
      s₁.params = s₂.params ∧ s₁.asmBuf = s₂.asmBuf ∧ s₁.wasReset = s₂.wasReset ∧ s₁.cancel ≠ s₂.cancel ∧
      step s₁ = .next t₁ :=
  ⟨serving [0xAA] ⟨0x12000000, []⟩, { serving [0xAA] ⟨0x12000000, []⟩ with cancel := true }, _, rfl, rfl, rfl, rfl, rfl,
    by decide, rfl⟩

theorem witness_ParametersNeverChange : ∃ t, step (serving [] ⟨0x10000000, []⟩) = .next t := ⟨_, rfl⟩

theorem witness_RequestBeforeResetIsRefused :
    ∃ s : State, s.params.maxLen ≠ 0 ∧ s.wasReset = false ∧ s.port = .request ⟨0x11000000, []⟩ :=
  ⟨{ State.powerOn with port := .request ⟨0x11000000, []⟩ }, by decide, rfl, rfl⟩

theorem witness_MaxLenZeroIsRefused :
    { State.reset with params := ⟨0, none, Config.generalKnowledgeCodes⟩ }.params.maxLen = 0 := by decide

theorem witness_ResetClearsBuffer :
    (State.reset.withScript [.reset]).params.maxLen ≠ 0 ∧ (State.reset.withScript [.reset]).port = .idle ∧
      (State.reset.withScript [.reset]).phase = .scripted ∧ (State.reset.withScript [.reset]).script = .reset :: [] := by
  decide

theorem witness_OpenBufferShape : BufferInv (serving [0xAA, 0xC2] ⟨0x10000023, []⟩) := ⟨by decide, by decide⟩

theorem witness_StepKeepsBufferInvariant :
    BufferInv (serving [0xAA, 0xC2] ⟨0x10000023, []⟩) ∧
      ∃ t, step (serving [0xAA, 0xC2] ⟨0x10000023, []⟩) = .next t := ⟨witness_OpenBufferShape, _, rfl⟩

theorem witness_EmittedFrameShapes :
    BufferInv (serving [0xAA] ⟨0, []⟩) ∧ (∃ t, exec (.asmByte 0x12) (serving [0xAA] ⟨0, []⟩) = .next t ∧
      t.port = .response ⟨.frame, .frame [0xAA, 0x12]⟩) := ⟨⟨by decide, by decide⟩, _, rfl, rfl⟩

theorem witness_EmittedFrameShapes_overflow :
    BufferInv (serving (0xAA :: 0xC9 :: List.replicate 29 0x00) ⟨0, []⟩) ∧
      (∃ t, exec (.asmByte 0x12) (serving (0xAA :: 0xC9 :: List.replicate 29 0x00) ⟨0, []⟩) = .next t ∧
        t.port = .response ⟨.frameOverflow, .nothing⟩) := ⟨⟨by decide, by decide⟩, _, rfl, rfl⟩

theorem witness_FramesPartitionTheStream :
    ∀ r ∈ (feed State.reset [0xAA, 0x12, 0xAA]).1, r.status ≠ .frameOverflow := by decide

theorem witness_LongLengthCodesOverflow :
    State.reset.asmBuf = [] ∧ (0xC9 : Byte).toNat / 16 = 0xC ∧ 9 ≤ (0xC9 : Byte).toNat % 16 ∧
      (List.replicate 30 (0x00 : Byte)).length + 2 = State.reset.params.maxLen := by decide

theorem witness_CycleEndsWithinMaxLen :
    State.reset.params.maxLen ≠ 0 ∧
      State.reset.params.maxLen ≤ State.reset.asmBuf.length + (List.replicate 32 (0xAA : Byte)).length ∧
      List.replicate 32 (0xAA : Byte) ≠ [] := by decide

theorem witness_BuiltDataFrameIsReassembled :
    State.reset.asmBuf = [] ∧ ([1, 2, 3, 4, 5, 6, 7, 8] : List Byte).length ≤ 8 ∧
      ([1, 2, 3, 4, 5, 6, 7, 8] : List Byte).length + 5 ≤ State.reset.params.maxLen := by decide

theorem witness_BuiltConfigurationFrameIsReassembled :
    State.reset.asmBuf = [] ∧ 20 ≤ State.reset.params.maxLen ∧ State.reset.params.seqMax = none := by decide

theorem witness_ExtendedFrameIsSplit :
    State.reset.asmBuf = [] ∧ 2 ≤ State.reset.params.maxLen ∧ ([0x11, 0x22] : List Byte).length ≤ 8 ∧
      ∀ b ∈ ([0x23, 0x01, 0x11, 0x22] : List Byte), b ≠ 0xAA := by decide

theorem witness_StepKeepsHostInvariant :
    HostInv (standing .awaitByte (.request (encode (.asmByte 0xAA)))) ∧
      ∃ t, step (standing .awaitByte (.request (encode (.asmByte 0xAA)))) = .next t :=
  ⟨HostInv.of_call (i := .asmByte 0xAA) rfl (by decide) rfl ⟨_, rfl⟩ (by decide) rfl, _, rfl⟩

theorem witness_RunNeverStops :
    HostInv (standing .dumpTop .idle) ∧ (standing .dumpTop .idle).params.maxLen ≠ 0 ∧
      (standing .dumpTop .idle).phase ≠ .scripted ∧ ∀ e, (standing .dumpTop .idle).phase ≠ .ended e :=
  ⟨HostInv.of_idle rfl rfl (by decide) (by decide), by decide, by decide, fun _ => nofun⟩

/-- A dump loop in its last reception, one frame below its limit. -/
def lastReception : State := { standing .dumpTop .idle with dump := ⟨1, some 2⟩ }

theorem witness_StepKeepsDumpLimit : DumpInv lastReception ∧ ∃ t, step lastReception = .next t :=
  ⟨fun l h => by
    have : l = 2 := by simpa [lastReception] using h.symm
    subst this
    exact ⟨by decide, by decide⟩, _, rfl⟩

theorem witness_CancellationIsSticky :
    ∃ s t : State, s.cancel = true ∧ (∀ a, s.phase ≠ .start a) ∧ step s = .next t :=
  ⟨{ standing .pollWait .idle with cancel := true }, _, rfl, fun _ => nofun, rfl⟩

theorem witness_ScriptedHostTakesOneResponse :
    (State.reset.withScript [.request ⟨0x11000000, []⟩, .reset]).phase = .scripted ∧
      (State.reset.withScript [.request ⟨0x11000000, []⟩, .reset]).port = .idle ∧
      (State.reset.withScript [.request ⟨0x11000000, []⟩, .reset]).script = [.request ⟨0x11000000, []⟩, .reset] ∧
      State.reset.wasReset = true ∧ State.reset.params.maxLen ≠ 0 := by decide

theorem witness_StartResetsAndChecksSpeed :
    ((State.reset.withRun (run 500000 (.dump none))).params.maxLen ≠ 0 ∧
      (State.reset.withRun (run 500000 (.dump none))).phase = .start (run 500000 (.dump none)) ∧
      (State.reset.withRun (run 500000 (.dump none))).port = .idle) ∧
    ((standing (.lookUpSpeed (run 4999 (.dump none))) .idle).params.maxLen ≠ 0 ∧
      (standing (.lookUpSpeed (run 4999 (.dump none))) .idle).port = .idle ∧
      (standing (.lookUpSpeed (run 4999 (.dump none))) .idle).phase = .lookUpSpeed (run 4999 (.dump none)) ∧
      (standing (.lookUpSpeed (run 4999 (.dump none))) .idle).params.codes.speed.lookup
        (run 4999 (.dump none)).bitrate = none) := by decide

theorem witness_StartResetsAndChecksSpeed_limits :
    ((State.reset.withRun (run 500000 (.dump (some 0)))).phase = .start (run 500000 (.dump (some 0))) ∧
      (State.reset.withRun (run 500000 (.inject strings))).phase = .start (run 500000 (.inject strings)) ∧
      State.reset.params.maxLen ≠ 0 ∧ State.reset.port = .idle) ∧
    ((standing (.lookUpSpeed (run 500000 (.dump (some 0)))) .idle).params.maxLen ≠ 0 ∧
      (standing (.lookUpSpeed (run 500000 (.dump (some 0)))) .idle).port = .idle ∧
      (standing (.lookUpSpeed (run 500000 (.dump (some 0)))) .idle).phase = .lookUpSpeed (run 500000 (.dump (some 0))) ∧
      (run 500000 (.dump (some 0))).mode = .dump (some 0) ∧
      (standing (.lookUpSpeed (run 500000 (.dump (some 0)))) .idle).params.codes.speed.lookup
        (run 500000 (.dump (some 0))).bitrate = some 0x03) := by decide

theorem witness_InjectionInputValidation_refused :
    ∀ p ∈ [Phase.awaitIdentifier (run 500000 (.inject strings)) strings 0x03,
        .awaitPayload (run 500000 (.inject strings)) strings 0x03],
      (standing p (.response ⟨.illegalOp, .nothing⟩)).params.maxLen ≠ 0 ∧
        (standing p (.response ⟨.illegalOp, .nothing⟩)).phase = p ∧
        (standing p (.response ⟨.illegalOp, .nothing⟩)).port = .response ⟨.illegalOp, .nothing⟩ := by decide

theorem witness_InjectionInputValidation_start :
    (standing (.lookUpSpeed (run 500000 (.inject strings))) .idle).params.maxLen ≠ 0 ∧
      (standing (.lookUpSpeed (run 500000 (.inject strings))) .idle).port = .idle ∧
      (standing (.lookUpSpeed (run 500000 (.inject strings))) .idle).phase =
        .lookUpSpeed (run 500000 (.inject strings)) ∧
      (run 500000 (.inject strings)).mode = .inject strings ∧
      (standing (.lookUpSpeed (run 500000 (.inject strings))) .idle).params.codes.speed.lookup
        (run 500000 (.inject strings)).bitrate = some 0x03 := by decide

theorem witness_InjectionInputValidation :
    ∃ (a : RunInputs) (g : InjectInputs) (speed : Byte) (s₁ s₂ s₃ s₄ s₅ : State),
      (s₁.params.maxLen ≠ 0 ∧ s₁.phase = .awaitIdentifier a g speed ∧
        s₁.port = .response ⟨.invalidIdentifier, .nothing⟩) ∧
      (s₂.params.maxLen ≠ 0 ∧ s₂.phase = .awaitIdentifier a g speed ∧
        s₂.port = .response ⟨.ok, .identifier 0x23 0x01⟩) ∧
      (s₃.params.maxLen ≠ 0 ∧ s₃.phase = .awaitPayload a g speed ∧ s₃.port = .response ⟨.ok, .bytes [] false⟩) ∧
      (s₄.params.maxLen ≠ 0 ∧ s₄.phase = .awaitPayload a g speed ∧
        s₄.port = .response ⟨.ok, .bytes (List.replicate 8 0x11) true⟩ ∧ (List.replicate 8 (0x11 : Byte)).length ≤ 8) ∧
      (s₅.params.maxLen ≠ 0 ∧ s₅.phase = .awaitPayload a g speed ∧
        s₅.port = .response ⟨.ok, .bytes (List.replicate 9 0x11) true⟩ ∧ 8 < (List.replicate 9 (0x11 : Byte)).length) :=
  ⟨run 500000 (.inject strings), strings, 0x03,
    standing (.awaitIdentifier (run 500000 (.inject strings)) strings 0x03) (.response ⟨.invalidIdentifier, .nothing⟩),
    standing (.awaitIdentifier (run 500000 (.inject strings)) strings 0x03) (.response ⟨.ok, .identifier 0x23 0x01⟩),
    standing (.awaitPayload (run 500000 (.inject strings)) strings 0x03) (.response ⟨.ok, .bytes [] false⟩),
    standing (.awaitPayload (run 500000 (.inject strings)) strings 0x03)
      (.response ⟨.ok, .bytes (List.replicate 8 0x11) true⟩),
    standing (.awaitPayload (run 500000 (.inject strings)) strings 0x03)
      (.response ⟨.ok, .bytes (List.replicate 9 0x11) true⟩), by decide⟩

/-- A run at its open, with one answer scheduled. -/
def opening (ok : Bool) : State :=
  { standing (.openTransport (run 500000 (.dump none)) 0x03) .idle with env := scheduled [] [] [ok] [] [] }

theorem witness_OpenThenConfigure : ∀ ok : Bool,
    (opening ok).params.maxLen ≠ 0 ∧ (opening ok).port = .idle ∧
      (opening ok).phase = .openTransport (run 500000 (.dump none)) 0x03 ∧ (opening ok).env.opens = ok :: [] := by
  decide

/-- A run whose two-byte frame is about to be written, with one answer scheduled. -/
def writing (p : Phase) (w : WriteResult) : State :=
  { standing p (.response ⟨.ok, .frame [1, 2]⟩) with env := scheduled [] [w] [] [] [] }

theorem witness_ShortWriteEndsTheRun :
    (∀ p ∈ [Phase.awaitDataFrame, .awaitConfiguration (.dump none), .awaitConfiguration (.inject strings)],
      ∀ w ∈ [WriteResult.error, .count 1, .count 2],
        (writing p w).params.maxLen ≠ 0 ∧ (writing p w).port = .response ⟨.ok, .frame [1, 2]⟩ ∧
          (writing p w).env.writes = w :: [] ∧ (writing p w).phase = p) ∧
      1 < ([1, 2] : List Byte).length ∧ ([1, 2] : List Byte).length ≤ 2 := by decide

theorem witness_OnlyBuiltFramesAreWritten :
    ∃ s t : State, step s = .next t ∧ t.link.writes ≠ s.link.writes :=
  ⟨{ standing .awaitDataFrame (.response ⟨.ok, .frame [1, 2]⟩) with env := scheduled [] [.count 2] [] [] [] }, _, rfl,
    by decide⟩

/-- An injecting run at the top of an iteration. -/
def injectingTop (ms : Nat) (cancel sig : Bool) : State :=
  { standing .injectTop .idle with
    cancel := cancel
    inj := ⟨[0xFF, 0x00], .incremental, ms, false, 0x23, 0x01⟩
    env := scheduled [] [] [] [] [sig] }

theorem witness_InjectionChecksFlagFirst :
    (∀ ms ∈ [0, 1], ∀ cancel sig : Bool,
      (injectingTop ms cancel sig).params.maxLen ≠ 0 ∧ (injectingTop ms cancel sig).port = .idle ∧
        (injectingTop ms cancel sig).phase = .injectTop ∧ (injectingTop ms cancel sig).env.signals = sig :: [] ∧
        (injectingTop ms cancel sig).cancel = cancel ∧ (injectingTop ms cancel sig).inj.intervalMs = ms) ∧
    ((standing .injectSleep .idle).params.maxLen ≠ 0 ∧ (standing .injectSleep .idle).port = .idle ∧
      (standing .injectSleep .idle).phase = .injectSleep) := by decide

/-- A run at its build, in each payload mode, with two random bytes scheduled. -/
def building (m : PayloadMode) : State :=
  { standing .injectBuild .idle with
    inj := ⟨[0xFF, 0x00], m, 0, false, 0x23, 0x01⟩
    env := ⟨[], [], [], [0x05, 0x06], [], [], 0⟩ }

theorem witness_PayloadMutation : ∀ m ∈ [PayloadMode.fixed, .incremental, .random],
    (building m).params.maxLen ≠ 0 ∧ (building m).port = .idle ∧ (building m).phase = .injectBuild ∧
      (building m).inj.mode = m ∧ (building m).inj.payload[0]? = some 0xFF ∧
      (building m).inj.payload.length ≤ (building m).env.randoms.length ∧
      (building m).env.randoms = (building m).env.randoms.take (building m).inj.payload.length ++ [] := by decide

/-- An injecting run at its build, with one full write scheduled. -/
def injectingRun : State :=
  { standing .injectBuild .idle with
    inj := ⟨[0xFF, 0x00], .incremental, 0, false, 0x23, 0x01⟩
    env := scheduled [] [.count 7] [] [] [] }

theorem witness_InjectionIterationWritesOneFrame :
    injectingRun.params.maxLen ≠ 0 ∧ injectingRun.wasReset = true ∧ injectingRun.port = .idle ∧
      injectingRun.phase = .injectBuild ∧ injectingRun.inj.mode = .incremental ∧
      injectingRun.inj.payload.length ≤ 8 ∧ injectingRun.env.writes = .count 7 :: [] ∧
      injectingRun.inj.payload.length + 5 ≤ 7 := by decide

/-- A reception at the top of an iteration. -/
def polling (cancel sig : Bool) (rd : Option Byte) : State :=
  { standing .receiveTop .idle with cancel := cancel, env := scheduled [rd] [] [] [] [sig] }

theorem witness_ReceptionChecksFlagBeforeReading :
    ∀ p ∈ [polling false false none, polling false false (some 0xAA), polling true false (some 0xAA),
        polling false true none],
      p.params.maxLen ≠ 0 ∧ p.port = .idle ∧ p.phase = .receiveTop ∧
        (p.env.signals = true :: [] ∨ p.env.signals = false :: []) ∧
        (p.env.reads = none :: [] ∨ p.env.reads = some 0xAA :: []) := by decide

/-- A host with a timestamp scheduled, in a phase and with a port. -/
def stamped (p : Phase) (port : Port) : State := { standing p port with env := scheduled [] [] [] [5] [] }

theorem witness_ReceptionOutcomes :
    ∀ w ∈ [(Phase.awaitByte, Port.response ⟨.pending, .nothing⟩), (.awaitByte, .response ⟨.frameOverflow, .nothing⟩),
        (.awaitByte, .response ⟨.frame, .frame [0x7F]⟩), (.awaitCancelled, .response ⟨.cancelled, .nothing⟩),
        (.awaitEmpty, .response ⟨.pending, .nothing⟩), (.pollWait, .idle)],
      (stamped w.1 w.2).params.maxLen ≠ 0 ∧ (stamped w.1 w.2).env.stamps = 5 :: [] ∧
        (stamped w.1 w.2).phase = w.1 ∧ (stamped w.1 w.2).port = w.2 := by decide

theorem witness_DumpRendersAndCounts :
    ∀ r ∈ [Response.mk .notADataFrame (.classified .unknown), ⟨.ok, .decoded ⟨.data, 0, 0, 0, false, 0, [], []⟩⟩],
      (standing (.awaitDecoded [0x7F] 5) (.response r)).params.maxLen ≠ 0 ∧
        (standing (.awaitDecoded [0x7F] 5) (.response r)).phase = .awaitDecoded [0x7F] 5 ∧
        (standing (.awaitDecoded [0x7F] 5) (.response r)).port = .response r := by decide

/-- A dump loop at its top: its count against its limit, and what the check of the flag sees. -/
def dumping (count : Nat) (limit : Option Nat) (cancel sig : Bool) : State :=
  { standing .dumpTop .idle with
    cancel := cancel
    dump := ⟨count, limit⟩
    env := scheduled [] [] [] [] [sig] }

theorem witness_DumpChecksFlagThenLimit :
    ∀ d ∈ [dumping 0 (some 0) false false, dumping 1 (some 2) false false, dumping 2 (some 2) false false,
        dumping 7 none false false, dumping 0 none true false, dumping 0 none false true],
      d.params.maxLen ≠ 0 ∧ d.port = .idle ∧ d.phase = .dumpTop ∧
        (d.env.signals = true :: [] ∨ d.env.signals = false :: []) := by decide

/-- A dump loop with one data frame of one payload byte to come. -/
def receivingRun : State :=
  { standing .dumpTop .idle with
    dump := ⟨0, some 1⟩
    env := scheduled ([0xAA, 0xC1, 0x0A, 0x00, 0x00, 0x55].map some) [] [] [5] (List.replicate 7 false) }

theorem witness_DumpDeliversDataFrame :
    receivingRun.wasReset = true ∧ receivingRun.port = .idle ∧ receivingRun.phase = .dumpTop ∧
      receivingRun.asmBuf = [] ∧ receivingRun.cancel = false ∧ receivingRun.params.seqMax = none ∧
      1 + 5 ≤ receivingRun.params.maxLen ∧ (0xC1 : Byte).toNat / 16 = 0xC ∧ (0xC1 : Byte).toNat % 16 = 1 ∧
      (∀ l ∈ receivingRun.dump.limit, receivingRun.dump.count < l) ∧
      receivingRun.env.reads = ([0xAA, 0xC1, 0x0A, 0x00] ++ [0x00] ++ [0x55] : List Byte).map some ++ [] ∧
      receivingRun.env.signals = List.replicate (1 + 6) false ++ [] ∧ receivingRun.env.stamps = 5 :: [] := by decide

end Sys2Proof.Tests
end

section
/-! SUPPORT. Every unit but the Frame Assembler is a pure function of its operands (R13): its response is a function
of the instance's parameters alone, and only the port changes. -/

namespace Sys2Proof.Machine

/-- What an instance answers to the sequence operand `q`: `r` where `q` is within `SEQ_MAX`, else ILLEGAL_OP (R8). -/
def boundedResponse (q : List Byte) (r : Response) (p : Params) : Response :=
  if withinBound p.seqMax q then r else ⟨.illegalOp, .nothing⟩

/-- An operation that answers `r` to an operand the block takes, and else raises ILLEGAL_OP, reads the state only
through its parameters. -/
theorem next_ite_takes (s : State) (q : List Byte) (st : Status) (res : Results) :
    (if s.takes q then (.next (s.respond st res) : Host.Outcome State Fault Refusal) else .next (s.raise .illegalOp)) =
      .next { s with port := .response (boundedResponse q ⟨st, res⟩ s.params) } := by
  rw [State.takes_eq_withinBound, boundedResponse]
  split <;> rfl

/-- Outside ASM_BYTE and ASM_CANCEL an instruction's response is a function of the parameters alone, and nothing but
the port changes (R13, R22). -/
theorem exec_response_of_params (i : Instr) (h : i.op ∉ [Op.asmByte, Op.asmCancel]) :
    ∃ f : Params → Response, ∀ s : State, exec i s = .next { s with port := .response (f s.params) } := by
  cases i with
  | cksum q => exact ⟨_, fun s => next_ite_takes s q _ _⟩
  | hexid q =>
    cases hid : identifierOf q with
    | none => exact ⟨_, fun s => by simp only [exec, execHexid, hid]; exact next_ite_takes s q _ _⟩
    | some lm => exact ⟨_, fun s => by simp only [exec, execHexid, hid]; exact next_ite_takes s q _ _⟩
  | hexpl m q => exact ⟨_, fun s => next_ite_takes s q _ _⟩
  | asmByte x => simp [Instr.op] at h
  | asmEmpty => exact ⟨fun _ => ⟨.pending, .nothing⟩, fun _ => rfl⟩
  | asmCancel => simp [Instr.op] at h
  | cfgbld a b c => exact ⟨fun _ => ⟨.ok, .frame (configurationFrame a b c)⟩, fun _ => rfl⟩
  | datbld e m l p =>
    by_cases h8 : 8 < p.length
    · exact ⟨fun _ => ⟨.payloadTooLong, .nothing⟩, fun _ => by simp only [exec, execDatbld, if_pos h8]; rfl⟩
    · exact ⟨fun _ => ⟨.ok, .frame (dataFrame e m l p)⟩, fun _ => by simp only [exec, execDatbld, if_neg h8]; rfl⟩
  | datdec q =>
    cases hd : decodeDataFrame q with
    | none => exact ⟨_, fun s => by simp only [exec, execDatdec, hd]; exact next_ite_takes s q _ _⟩
    | some d => exact ⟨_, fun s => by simp only [exec, execDatdec, hd]; exact next_ite_takes s q _ _⟩

/-- Settles O24: the response is a function of the parameters, which the two states share. -/
theorem otherUnitsArePure : Obligations.OtherUnitsArePure := by
  intro i s₁ s₂ hi hp
  have hi' : i.op ∉ [Op.asmByte, Op.asmCancel] := by
    simp only [List.mem_cons, not_or] at hi ⊢
    obtain ⟨notByte, _, notCancel⟩ := hi
    exact ⟨notByte, notCancel⟩
  obtain ⟨f, hf⟩ := exec_response_of_params i hi'
  exact ⟨f s₁.params, hf s₁, by rw [hf s₂, hp]⟩

end Sys2Proof.Machine
end

section
/-! SUPPORT. The assembler buffer over one step (R22): which instructions change it and to what, and its frame. -/

namespace Sys2Proof.Machine

/-- ASM_BYTE leaves the buffer empty or longer by its byte (R134). -/
theorem exec_asmByte_asmBuf {x : Byte} {s t : State} (h : exec (.asmByte x) s = .next t) :
    t.asmBuf = [] ∨ t.asmBuf = s.asmBuf ++ [x] := by
  change execAsmByte x s = .next t at h
  obtain ⟨_, he⟩ | ⟨_, _, he⟩ | ⟨_, _, he⟩ := execAsmByte_cases x s
  all_goals
    rw [he] at h
    cases h
  · exact .inl rfl
  · exact .inl rfl
  · exact .inr rfl

/-- ASM_CANCEL leaves the buffer empty (R138). -/
theorem exec_asmCancel_asmBuf {s t : State} (h : exec .asmCancel s = .next t) : t.asmBuf = [] := by
  cases h
  rfl

/-- Outside ASM_BYTE and ASM_CANCEL an instruction leaves the buffer as it is (R22). -/
theorem exec_asmBuf_of_other {i : Instr} {s t : State} (hi : i.op ∉ [Op.asmByte, Op.asmCancel])
    (h : exec i s = .next t) : t.asmBuf = s.asmBuf := by
  obtain ⟨f, hf⟩ := exec_response_of_params i hi
  rw [hf] at h
  cases h
  rfl

/-- An operation that is ASM_BYTE or ASM_CANCEL stands in one of their two instruction forms. -/
theorem eq_asmByte_or_asmCancel {i : Instr} (hi : i.op ∈ [Op.asmByte, Op.asmCancel]) :
    (∃ x, i = .asmByte x) ∨ i = .asmCancel := by
  cases i with
  | asmByte x => exact .inl ⟨x, rfl⟩
  | asmCancel => exact .inr rfl
  | _ => simp [Instr.op] at hi

/-- A served request that changes the buffer is an ASM_BYTE or an ASM_CANCEL, and leaves what they leave (R22). -/
theorem serve_asmBuf_changed {s t : State} {q : Request} (h : serve q s = .next t) (hb : t.asmBuf ≠ s.asmBuf) :
    (∃ x, decode q = .ok (.asmByte x) ∧ (t.asmBuf = [] ∨ t.asmBuf = s.asmBuf ++ [x])) ∨
      (decode q = .ok .asmCancel ∧ t.asmBuf = []) := by
  obtain ⟨_, ⟨_, _, rfl⟩ | ⟨i, hd, he⟩⟩ := serve_cases h
  · exact absurd rfl hb
  · by_cases hi : i.op ∈ [Op.asmByte, Op.asmCancel]
    · obtain ⟨x, rfl⟩ | rfl := eq_asmByte_or_asmCancel hi
      · exact .inl ⟨x, hd, exec_asmByte_asmBuf he⟩
      · exact .inr ⟨hd, exec_asmCancel_asmBuf he⟩
    · exact absurd (exec_asmBuf_of_other hi he) hb

/-- A step that changes the buffer serves ASM_BYTE or ASM_CANCEL, or is a reset by the host (R22). -/
theorem step_asmBuf_changed {s t : State} (h : step s = .next t) (hb : t.asmBuf ≠ s.asmBuf) :
    (∃ q x, s.port = .request q ∧ decode q = .ok (.asmByte x) ∧ (t.asmBuf = [] ∨ t.asmBuf = s.asmBuf ++ [x])) ∨
    (∃ q, s.port = .request q ∧ decode q = .ok .asmCancel ∧ t.asmBuf = []) ∨
    (s.port = .idle ∧ t.asmBuf = [] ∧
      ((∃ a, s.phase = .start a) ∨ (s.phase = .scripted ∧ s.script.head? = some .reset))) := by
  obtain ⟨_, ⟨q, hp, _, hs⟩ | ⟨r, _, ht⟩ | ⟨hp, rfl⟩⟩ := step_cases h
  · obtain ⟨x, hd, ha⟩ | ⟨hd, ha⟩ := serve_asmBuf_changed hs hb
    · exact .inl ⟨q, x, hp, hd, ha⟩
    · exact .inr (.inl ⟨q, hp, hd, ha⟩)
  · obtain ⟨_, unchanged, _⟩ := hostTake_frame ht
    exact absurd unchanged hb
  · obtain ⟨_, _, unchanged | ⟨empty, place⟩⟩ := hostAct_frame s
    · exact absurd unchanged hb
    · exact .inr (.inr ⟨hp, empty, place⟩)

/-- Settles O25: the change of the buffer by the inversion of a step; the independence of the other instructions
because their response is a function of the parameters, which a change of the buffer leaves alone. -/
theorem onlyResetAndAssemblerChangeBuffer : Obligations.OnlyResetAndAssemblerChangeBuffer := by
  refine ⟨fun _ _ => step_asmBuf_changed, fun i s hi => ?_⟩
  obtain ⟨f, hf⟩ := exec_response_of_params i hi
  exact ⟨f s.params, fun b => hf { s with asmBuf := b }⟩

end Sys2Proof.Machine
end

section
/-! SUPPORT. Ill-formed requests (R72, R73): which requests the decoder rejects, in terms of the operation number, and
what a well-formed one decodes to. -/

namespace Sys2Proof.Machine

/-! ## Operation numbers -/

/-- The operation found in a word has the word's operation number as its code (R69, R71). -/
theorem opNumber_of_ofCode {w : Word} {op : Op} (h : Op.ofCode (opField w) = some op) :
    opNumber w = op.code.toNat := by
  rw [← (ofCode_eq_some _ _).1 h, toNat_opField, opNumber]

/-- A number among the codes of operations that share a property is the code of an operation with that property. -/
theorem exists_op_of_mem_codes {n : Nat} {ops : List Op} {P : Op → Prop} (hP : ∀ op ∈ ops, P op)
    (h : n ∈ ops.map (·.code.toNat)) : ∃ op, n = op.code.toNat ∧ P op := by
  obtain ⟨op, hmem, rfl⟩ := List.mem_map.1 h
  exact ⟨op, rfl, hP op hmem⟩

/-- No operation's code lies in one of the four unassigned ranges (R71, R73). -/
theorem code_assigned (op : Op) :
    ¬ (op.code.toNat = 0x00 ∨ (0x04 ≤ op.code.toNat ∧ op.code.toNat ≤ 0x0F) ∨
      (0x13 ≤ op.code.toNat ∧ op.code.toNat ≤ 0x1F) ∨ 0x23 ≤ op.code.toNat) := by
  cases op <;> decide

/-! ## Rejection -/

/-- A request whose operation number is no operation's code is rejected (R73). -/
theorem illegalRequest_of_unassigned {w : Word} (seq : List Byte) (h : ∀ op : Op, opNumber w ≠ op.code.toNat) :
    IllegalRequest ⟨w, seq⟩ := by
  cases ho : Op.ofCode (opField w) with
  | none => exact illegalRequest_of_error (e := .unassignedOp) (by simp [decode, ho])
  | some op => exact absurd (opNumber_of_ofCode ho) (h op)

/-- A request with a reserved bit of its operation's format set is rejected (R72). -/
theorem illegalRequest_of_reservedBits {w : Word} (seq : List Byte) {op : Op} (h : opNumber w = op.code.toNat)
    (hr : ¬ op.format.reservedClear w = true) : IllegalRequest ⟨w, seq⟩ :=
  illegalRequest_of_error (by rw [decode_of_opNumber seq h, if_neg hr])

/-- A request with a sequence that its operation's format does not take is rejected (R72). -/
theorem illegalRequest_of_sequence {w : Word} {seq : List Byte} {op : Op} (h : opNumber w = op.code.toNat)
    (ht : op.format.takesSequence = false) (hs : seq ≠ []) : IllegalRequest ⟨w, seq⟩ := by
  by_cases hr : op.format.reservedClear w = true
  · exact illegalRequest_of_error (e := .sequenceNotTaken) (by simp [decode_of_opNumber seq h, hr, ht, hs])
  · exact illegalRequest_of_reservedBits seq h hr

/-- A request with its reserved bits clear and no sequence beyond its format decodes to its operands (R70). -/
theorem decode_of_reservedClear {w : Word} {seq : List Byte} {op : Op} (h : opNumber w = op.code.toNat)
    (hr : op.format.reservedClear w = true) (hs : op.format.takesSequence = true ∨ seq = []) :
    decode ⟨w, seq⟩ = .ok (operandsOf w seq op) := by
  rw [decode_of_opNumber seq h, if_pos hr, if_pos (by simpa using hs)]

/-! ## The obligations -/

/-- Settles O4: an operation's code is in none of the unassigned ranges, so the decoder finds no operation. -/
theorem unassignedOpIsIllegal : Obligations.UnassignedOpIsIllegal := by
  intro w seq unassigned
  refine illegalRequest_of_unassigned seq fun op hop => code_assigned op ?_
  rwa [hop] at unassigned

/-- Settles O5: each clause names the operations of some formats; the reserved bits are read off by format. -/
theorem malformedRequestIsIllegal : Obligations.MalformedRequestIsIllegal := by
  rintro w seq (⟨hop, hbits⟩ | ⟨hop, hbits⟩ | ⟨hop, hbits⟩ | ⟨hop, hseq⟩)
  · have formats : ∀ op ∈ [Op.cksum, .hexid, .asmEmpty, .asmCancel, .datdec],
        op.format = .none ∨ op.format = .sequence := by decide
    obtain ⟨op, hop, hf⟩ := exists_op_of_mem_codes formats hop
    refine illegalRequest_of_reservedBits seq hop ((reservedClear_iff op.format w).not.2 ?_)
    obtain hf | hf := hf <;> simpa only [hf] using hbits
  · have formats : ∀ op ∈ [Op.hexpl, .asmByte], op.format = .sequenceCount ∨ op.format = .byte := by decide
    obtain ⟨op, hop, hf⟩ := exists_op_of_mem_codes formats hop
    refine illegalRequest_of_reservedBits seq hop ((reservedClear_iff op.format w).not.2 ?_)
    obtain hf | hf := hf <;> simpa only [hf] using hbits
  · exact illegalRequest_of_reservedBits (op := .datbld) seq hop ((reservedClear_iff .data w).not.2 hbits)
  · have noSequence : ∀ op ∈ [Op.asmByte, .asmEmpty, .asmCancel, .cfgbld], op.format.takesSequence = false := by decide
    obtain ⟨op, hop, ht⟩ := exists_op_of_mem_codes noSequence hop
    exact illegalRequest_of_sequence hop ht hseq

end Sys2Proof.Machine
end

section
/-! SUPPORT. The frame builders: the operand fields of a word as numbers, the checksum as a number, and what CFGBLD
and DATBLD answer. -/

namespace Sys2Proof.Machine

/-! ## Operand fields -/

theorem byte2_eq_ofNat (w : Word) : byte2 w = BitVec.ofNat 8 (w.toNat / 2 ^ 16 % 2 ^ 8) := by
  rw [← toNat_byte2, BitVec.ofNat_toNat, BitVec.setWidth_eq]

theorem byte1_eq_ofNat (w : Word) : byte1 w = BitVec.ofNat 8 (w.toNat / 2 ^ 8 % 2 ^ 8) := by
  rw [← toNat_byte1, BitVec.ofNat_toNat, BitVec.setWidth_eq]

theorem byte0_eq_ofNat (w : Word) : byte0 w = BitVec.ofNat 8 (w.toNat % 2 ^ 8) := by
  rw [← toNat_byte0, BitVec.ofNat_toNat, BitVec.setWidth_eq]

theorem extField_eq_beq (w : Word) : extField w = (w.toNat / 2 ^ 16 % 2 == 1) := by
  rw [extField, Bool.eq_iff_iff, beq_iff_eq, beq_iff_eq, ← BitVec.toNat_inj, BitVec.extractLsb'_toNat,
    Nat.shiftRight_eq_div_pow]
  rfl

/-! ## Frames -/

/-- The checksum is the sum of the bytes modulo 256 (R101). -/
theorem toNat_checksum (bytes : List Byte) : (checksum bytes).toNat = (bytes.map BitVec.toNat).sum % 256 :=
  BitVec.toNat_ofNat _ _

theorem length_configurationFrame (speed ftype mode : Byte) : (configurationFrame speed ftype mode).length = 20 := rfl

theorem length_dataFrame (ext : Bool) (idMsb idLsb : Byte) (payload : List Byte) :
    (dataFrame ext idMsb idLsb payload).length = payload.length + 5 := by
  simp [dataFrame]

/-- DATBLD on a payload of more than 8 bytes (R164). -/
theorem exec_datbld_tooLong (s : State) (ext : Bool) (m l : Byte) {p : List Byte} (h : 8 < p.length) :
    exec (.datbld ext m l p) s = .next (s.raise .payloadTooLong) := by
  change execDatbld ext m l p s = _
  rw [execDatbld, if_pos h]

/-! ## The obligations -/

/-- Settles O18: a word of format C decodes to its three code bytes; the bytes the checksum passes over are zero, so
its sum is also that of bytes 2 to 18. -/
theorem cfgbldBuildsConfigurationFrame : Obligations.CfgbldBuildsConfigurationFrame := by
  refine ⟨fun w seq hop => ⟨illegalRequest_of_sequence (op := .cfgbld) hop rfl, fun hseq => ?_⟩, ?_⟩
  · rw [decode_of_reservedClear (op := .cfgbld) hop rfl (.inr hseq), operandsOf, byte2_eq_ofNat, byte1_eq_ofNat,
      byte0_eq_ofNat]
  · intro s speed ftype mode
    refine ⟨configurationFrame speed ftype mode, checksum [0x12, speed, ftype, mode, 0x01], rfl, rfl, ?_, ?_⟩
    · rw [toNat_checksum]
      simp [Nat.add_assoc]
    · rw [toNat_checksum]
      simp [configurationFrame]

/-- Settles O19: a word of format D decodes to its fields; at most 8 payload bytes fit the info byte's length code. -/
theorem datbldBuildsDataFrame : Obligations.DatbldBuildsDataFrame := by
  refine ⟨fun w seq hop => ⟨fun hbits => ?_, fun hbits => ?_⟩, fun s ext idMsb idLsb payload => ⟨fun hlen => ?_, ?_⟩⟩
  · exact illegalRequest_of_reservedBits (op := .datbld) seq hop ((reservedClear_iff .data w).not.2 hbits)
  · have clear : Op.datbld.format.reservedClear w = true := (reservedClear_iff .data w).2 hbits
    rw [decode_of_reservedClear hop clear (.inl rfl), operandsOf, extField_eq_beq, byte1_eq_ofNat, byte0_eq_ofNat]
  · exact ⟨infoByte ext payload.length, exec_datbld s ext idMsb idLsb payload hlen, toNat_infoByte ext _ hlen⟩
  · exact exec_datbld_tooLong s ext idMsb idLsb

end Sys2Proof.Machine
end

section
/-! SUPPORT. Every response stands in the table R74, and no status has a reserved code (R75). -/

namespace Sys2Proof.Machine

/-- An outcome that answers, with a response the table R74 has for the instruction. -/
def AnswersInTable (i : Instr) (o : Host.Outcome State Fault Refusal) : Prop :=
  ∃ (r : Response) (t : State), o = .next t ∧ t.port = .response r ∧ Answers i r

/-- Responding with an entry of the table answers in the table. -/
theorem AnswersInTable.respond {i : Instr} {st : Status} {res : Results} (s : State) (h : Answers i ⟨st, res⟩) :
    AnswersInTable i (.next (s.respond st res)) :=
  ⟨_, _, rfl, rfl, h⟩

/-- A bounded operand adds only the table's ILLEGAL_OP row, which every operation has (R8, R74). -/
theorem AnswersInTable.ite_takes {i : Instr} {s : State} {q : List Byte} {o : Host.Outcome State Fault Refusal}
    (h : AnswersInTable i o) : AnswersInTable i (if s.takes q then o else .next (s.raise .illegalOp)) := by
  split
  · exact h
  · exact .respond s (.illegal i)

/-- A sequence that is no data frame is not classified as DATA (R167, R169). -/
theorem otherClass_ne_data (raw : List Byte) : otherClass raw ≠ .data := by
  unfold otherClass
  split
  · split <;> simp
  · simp

/-- Every instruction answers with a response of the table R74. -/
theorem exec_answersInTable (i : Instr) (s : State) : AnswersInTable i (exec i s) := by
  cases i with
  | cksum q => exact .ite_takes (.respond s (.cksum q _))
  | hexid q =>
    refine .ite_takes ?_
    split
    · exact .respond s (.hexid q _ _)
    · exact .respond s (.hexidInvalid q)
  | hexpl m q => exact .ite_takes (.respond s (.hexpl m q _ _ (List.length_take_le _ _)))
  | asmByte x =>
    change AnswersInTable _ (execAsmByte x s)
    obtain ⟨_, he⟩ | ⟨_, _, he⟩ | ⟨_, _, he⟩ := execAsmByte_cases x s <;> rw [he]
    · exact .respond _ (.asmByteFrame x _)
    · exact .respond _ (.asmByteOverflow x)
    · exact .respond _ (.asmBytePending x)
  | asmEmpty => exact .respond s .asmEmpty
  | asmCancel => exact .respond _ .asmCancel
  | cfgbld a b c => exact .respond s (.cfgbld a b c _ (length_configurationFrame a b c))
  | datbld e m l p =>
    by_cases h : 8 < p.length
    · rw [exec_datbld_tooLong s e m l h]
      exact .respond s (.datbldTooLong e m l p)
    · rw [exec_datbld s e m l p (by omega)]
      have hlen := length_dataFrame e m l p
      exact .respond s (.datbld e m l p (dataFrame e m l p) (by omega) (by omega))
  | datdec q =>
    refine .ite_takes ?_
    split
    · next d hd => exact .respond s (.datdec q d (decodeDataFrame_cls hd))
    · exact .respond s (.datdecOther q _ (otherClass_ne_data q))

/-- The status codes 0x8 to 0xE are reserved (R75). -/
theorem statusCode_not_reserved (st : Status) : ¬ (0x8 ≤ (statusCode st).toNat ∧ (statusCode st).toNat ≤ 0xE) := by
  cases st <;> decide

/-- The class value 3 names no class (R74). -/
theorem classCode_ne_three (c : FrameClass) : classCode c ≠ 3 := by
  cases c <;> decide

/-- Settles O28: every instruction answers in the table; the code lists are those of `statusCode` and `classCode`. -/
theorem responsesFollowTheTable : Obligations.ResponsesFollowTheTable := by
  refine ⟨fun i s => ?_, rfl, rfl, classCode_ne_three⟩
  obtain ⟨r, t, hexec, hport, hanswers⟩ := exec_answersInTable i s
  exact ⟨r, t, hexec, hport, hanswers, statusCode_not_reserved r.status⟩

end Sys2Proof.Machine
end

section
/-! SUPPORT. The digit function on its three ranges (R66, R110). -/

namespace Sys2Proof.Machine

/-- A nibble written from a number below 16 has that number as its value. -/
theorem some_ofNat_eq_some_iff {n : Nat} (h : n < 16) (v : Nibble) :
    some (BitVec.ofNat 4 n) = some v ↔ v.toNat = n := by
  rw [Option.some.injEq, ← BitVec.toNat_inj, BitVec.toNat_ofNat, Nat.mod_eq_of_lt h, eq_comm]

/-- Settles O10: the three ranges exclude each other, and outside them there is no digit. -/
theorem hexDigitValues : Obligations.HexDigitValues := by
  intro ch v
  unfold hexval
  split
  · rw [some_ofNat_eq_some_iff (by omega)]
    omega
  · split
    · rw [some_ofNat_eq_some_iff (by omega)]
      omega
    · split
      · rw [some_ofNat_eq_some_iff (by omega)]
        omega
      · simp only [reduceCtorEq, false_iff]
        omega

end Sys2Proof.Machine
end

section
/-! SUPPORT. The Checksum unit: what CKSUM answers to an operand within the instance's bound (R101). -/

namespace Sys2Proof.Machine

/-- CKSUM on an operand within `SEQ_MAX` responds with the checksum, and only the port changes (R8, R101). -/
theorem exec_cksum_of_withinBound (s : State) {bytes : List Byte} (h : withinBound s.params.seqMax bytes = true) :
    exec (.cksum bytes) s = .next (s.respond .ok (.sum (checksum bytes))) := by
  change execCksum bytes s = _
  rw [execCksum, if_pos ((State.takes_eq_withinBound s bytes).trans h)]

/-- Settles O8: a word of format Q has its low 24 bits reserved; the byte CKSUM answers is the sum truncated. -/
theorem cksumAnswersTheSum : Obligations.CksumAnswersTheSum := by
  refine ⟨fun w seq hop => ⟨fun hbits => ?_, fun hbits => ?_⟩, fun s bytes hbound => ?_⟩
  · exact illegalRequest_of_reservedBits (op := .cksum) seq hop ((reservedClear_iff .sequence w).not.2 hbits)
  · have clear : Op.cksum.format.reservedClear w = true := (reservedClear_iff .sequence w).2 hbits
    exact decode_of_reservedClear hop clear (.inl rfl)
  · exact ⟨checksum bytes, exec_cksum_of_withinBound s hbound, toNat_checksum bytes⟩

end Sys2Proof.Machine
end

section
/-! SUPPORT. The Hex Codec: when a string has an identifier and which one (R112), and what HEXID and HEXPL answer to
an operand within the instance's bound (R112, R115, R116). -/

namespace Sys2Proof.Machine

/-! ## Identifiers -/

/-- A string whose characters map to digits has one character for each, all of them hex digits. -/
theorem length_and_hex_of_map_eq {str : List Byte} {ds : List Nibble} (h : str.map hexval = ds.map some) :
    str.length = ds.length ∧ ∀ ch ∈ str, hexval ch ≠ none := by
  refine ⟨by simpa using congrArg List.length h, fun ch hmem hnone => ?_⟩
  have : none ∈ ds.map some := h ▸ hnone ▸ List.mem_map_of_mem hmem
  simp at this

/-- Only a string of 1 to 3 hex digits has an identifier (R112). -/
theorem length_and_hex_of_identifierOf {str : List Byte} {r : Byte × Byte} (h : identifierOf str = some r) :
    str.length ∈ [1, 2, 3] ∧ ∀ ch ∈ str, hexval ch ≠ none := by
  have digits : ∃ ds : List Nibble, str.map hexval = ds.map some ∧ ds.length ∈ [1, 2, 3] := by
    unfold identifierOf at h
    split at h
    · next a hmap => exact ⟨[a], hmap, by simp⟩
    · next a b hmap => exact ⟨[a, b], hmap, by simp⟩
    · next a b c hmap => exact ⟨[a, b, c], hmap, by simp⟩
    · cases h
  obtain ⟨ds, hmap, hlen⟩ := digits
  obtain ⟨hlength, hhex⟩ := length_and_hex_of_map_eq hmap
  exact ⟨hlength ▸ hlen, hhex⟩

/-- A string of another length, or with a character that is no hex digit, has no identifier (R112). -/
theorem identifierOf_eq_none {str : List Byte} (h : str.length ∉ [1, 2, 3] ∨ ∃ ch ∈ str, hexval ch = none) :
    identifierOf str = none := by
  rw [Option.eq_none_iff_forall_ne_some]
  intro r hr
  obtain ⟨hlen, hhex⟩ := length_and_hex_of_identifierOf hr
  obtain hbad | ⟨ch, hmem, hnone⟩ := h
  · exact hbad hlen
  · exact hhex ch hmem hnone

/-- A byte whose high digit is zero has the value of its low digit. -/
theorem byteOfDigits_zero (d : Nibble) : byteOfDigits 0 d = BitVec.ofNat 8 d.toNat := by
  simp [byteOfDigits]

theorem identifierOf_one {c₀ : Byte} {v₀ : Nibble} (h₀ : hexval c₀ = some v₀) :
    identifierOf [c₀] = some (BitVec.ofNat 8 v₀.toNat, 0) := by
  rw [← byteOfDigits_zero]
  simp [identifierOf, h₀]

theorem identifierOf_two {c₀ c₁ : Byte} {v₀ v₁ : Nibble} (h₀ : hexval c₀ = some v₀) (h₁ : hexval c₁ = some v₁) :
    identifierOf [c₀, c₁] = some (byteOfDigits v₀ v₁, 0) := by
  simp [identifierOf, h₀, h₁]

theorem identifierOf_three {c₀ c₁ c₂ : Byte} {v₀ v₁ v₂ : Nibble} (h₀ : hexval c₀ = some v₀)
    (h₁ : hexval c₁ = some v₁) (h₂ : hexval c₂ = some v₂) :
    identifierOf [c₀, c₁, c₂] = some (byteOfDigits v₁ v₂, BitVec.ofNat 8 v₀.toNat) := by
  rw [← byteOfDigits_zero]
  simp [identifierOf, h₀, h₁, h₂]

/-! ## Answers to an operand within the bound -/

/-- HEXID on a string with an identifier responds with it, and only the port changes (R8, R112). -/
theorem exec_hexid_of_some (s : State) {str : List Byte} {lsb msb : Byte}
    (hbound : withinBound s.params.seqMax str = true) (h : identifierOf str = some (lsb, msb)) :
    exec (.hexid str) s = .next (s.respond .ok (.identifier lsb msb)) := by
  change execHexid str s = _
  rw [execHexid, if_pos ((State.takes_eq_withinBound s str).trans hbound), h]

/-- HEXID on a string without an identifier raises INVALID_IDENTIFIER (R8, R112). -/
theorem exec_hexid_of_none (s : State) {str : List Byte} (hbound : withinBound s.params.seqMax str = true)
    (h : identifierOf str = none) : exec (.hexid str) s = .next (s.raise .invalidIdentifier) := by
  change execHexid str s = _
  rw [execHexid, if_pos ((State.takes_eq_withinBound s str).trans hbound), h]

/-- HEXPL responds with the payload's bytes and the truncation flag, and only the port changes (R8, R115, R116). -/
theorem exec_hexpl_of_withinBound (s : State) (maxLen : Byte) {str : List Byte}
    (hbound : withinBound s.params.seqMax str = true) :
    exec (.hexpl maxLen str) s =
      .next (s.respond .ok (.bytes (payloadBytes maxLen str) (truncFlag (hexDigits str) maxLen))) := by
  change execHexpl maxLen str s = _
  rw [execHexpl, if_pos ((State.takes_eq_withinBound s str).trans hbound)]

/-! ## Payload bytes -/

/-- One byte for each pair of digits, at most `max_len` (R115). -/
theorem length_payloadBytes (maxLen : Byte) (str : List Byte) :
    (payloadBytes maxLen str).length = min ((hexDigits str).length / 2) maxLen.toNat := by
  rw [payloadBytes, List.length_take, length_pairDigits, Nat.min_comm]

/-- Payload byte `i` is made of hex digits `2 i` and `2 i + 1`, the first high (R115). -/
theorem getElem?_payloadBytes {maxLen : Byte} {str : List Byte} {i : Nat} (h : i < (payloadBytes maxLen str).length) :
    ∃ hi lo, (hexDigits str)[2 * i]? = some hi ∧ (hexDigits str)[2 * i + 1]? = some lo ∧
      (payloadBytes maxLen str)[i]? = some (byteOfDigits hi lo) := by
  rw [length_payloadBytes, lt_min_iff] at h
  obtain ⟨hpairs, hcut⟩ := h
  rw [payloadBytes, List.getElem?_take_of_lt hcut]
  exact getElem?_pairDigits (hexDigits str) i hpairs

/-! ## The obligations -/

/-- Settles O11: a word of format Q has its low 24 bits reserved; HEXID answers by whether the string has an
identifier, which it has exactly at 1 to 3 hex digits. -/
theorem hexidDecodesIdentifier : Obligations.HexidDecodesIdentifier := by
  refine ⟨fun w seq hop => ⟨fun hbits => ?_, fun hbits => ?_⟩, fun s str hbound => ⟨fun hbad => ?_, ?_, ?_, ?_⟩⟩
  · exact illegalRequest_of_reservedBits (op := .hexid) seq hop ((reservedClear_iff .sequence w).not.2 hbits)
  · have clear : Op.hexid.format.reservedClear w = true := (reservedClear_iff .sequence w).2 hbits
    exact decode_of_reservedClear hop clear (.inl rfl)
  · exact exec_hexid_of_none s hbound (identifierOf_eq_none hbad)
  · rintro c₀ v₀ rfl h₀
    exact exec_hexid_of_some s hbound (identifierOf_one h₀)
  · rintro c₀ c₁ v₀ v₁ rfl h₀ h₁
    exact exec_hexid_of_some s hbound (identifierOf_two h₀ h₁)
  · rintro c₀ c₁ c₂ v₀ v₁ v₂ rfl h₀ h₁ h₂
    exact exec_hexid_of_some s hbound (identifierOf_three h₀ h₁ h₂)

/-- Settles O12: a word of format QN has bits 8 to 23 reserved and `max_len` in its low byte; the bytes HEXPL answers
are the paired digits cut at `max_len`. -/
theorem hexplDecodesPayload : Obligations.HexplDecodesPayload := by
  refine ⟨fun w seq hop => ⟨fun hbits => ?_, fun hbits => ?_⟩, fun s maxLen str hbound => ?_⟩
  · exact illegalRequest_of_reservedBits (op := .hexpl) seq hop ((reservedClear_iff .sequenceCount w).not.2 hbits)
  · have clear : Op.hexpl.format.reservedClear w = true := (reservedClear_iff .sequenceCount w).2 hbits
    rw [decode_of_reservedClear hop clear (.inl rfl), operandsOf, byte0_eq_ofNat]
  · exact ⟨payloadBytes maxLen str, exec_hexpl_of_withinBound s maxLen hbound, length_payloadBytes maxLen str,
      fun _ => getElem?_payloadBytes⟩

end Sys2Proof.Machine
end

section
/-! SUPPORT. The Frame Assembler (R131 to R138): the word forms of its three operations, the completion rule where the
length code is too long for a frame, and streams that fill the buffer without completing one. -/

namespace Sys2Proof.Machine

/-! ## Word forms -/

/-- A request for an operation that takes no sequence is ill-formed where a reserved bit is set or a sequence is given
(R72), and else decodes to its operands (R70); `P` is what "the reserved bits are zero" means for the format. -/
theorem illegal_or_decode_of_takesNoSequence {w : Word} {seq : List Byte} {op : Op} {P : Prop}
    (h : opNumber w = op.code.toNat) (ht : op.format.takesSequence = false)
    (hP : op.format.reservedClear w = true ↔ P) :
    (¬ P ∨ seq ≠ [] → IllegalRequest ⟨w, seq⟩) ∧ (P → seq = [] → decode ⟨w, seq⟩ = .ok (operandsOf w seq op)) := by
  refine ⟨?_, fun hbits hseq => decode_of_reservedClear h (hP.2 hbits) (.inr hseq)⟩
  rintro (hbits | hseq)
  · exact illegalRequest_of_reservedBits seq h (hP.not.2 hbits)
  · exact illegalRequest_of_sequence h ht hseq

/-! ## The completion rule -/

/-- Up to length code 8 a data frame completes at its payload and 5 bytes more (R131). -/
theorem complete_shortCode {c : Byte} (rest : List Byte) (hC : c.toNat / 16 = 0xC) (h8 : c.toNat % 16 ≤ 8) :
    complete (0xAA :: c :: rest) = decide (c.toNat % 16 + 5 ≤ rest.length + 2) := by
  rw [complete_data c rest hC, decide_eq_true h8, Bool.true_and]

/-- With length code 9 to 15 a data frame never completes (R132). -/
theorem complete_longCode {c : Byte} (rest : List Byte) (hC : c.toNat / 16 = 0xC) (h9 : 9 ≤ c.toNat % 16) :
    complete (0xAA :: c :: rest) = false := by
  rw [complete_data c rest hC, decide_eq_false (by omega), Bool.false_and]

/-- Nothing that such a data frame begins with is complete: neither its first byte alone, nor anything longer (R131,
R132). -/
theorem complete_prefix_longCode {c : Byte} {rest p : List Byte} (hC : c.toNat / 16 = 0xC) (h9 : 9 ≤ c.toNat % 16)
    (hp : p <+: 0xAA :: c :: rest) : complete p = false := by
  match p with
  | [] => rfl
  | [b0] =>
    obtain ⟨rfl, _⟩ := List.cons_prefix_cons.1 hp
    rfl
  | b0 :: b1 :: p =>
    obtain ⟨rfl, htail⟩ := List.cons_prefix_cons.1 hp
    obtain ⟨rfl, _⟩ := List.cons_prefix_cons.1 htail
    exact complete_longCode p hC h9

/-! ## Streams -/

/-- A stream that fills an empty buffer to `MAX_LEN` and begins with no complete frame gets PENDING for every byte but
the last, which overflows and leaves the buffer empty (R134, R135). -/
theorem feed_fill_overflow {s : State} {xs : List Byte} {x : Byte} (hb : s.asmBuf = [])
    (hl : xs.length + 1 = s.params.maxLen) (h : ∀ p, p <+: xs ++ [x] → complete p = false) :
    (feed s (xs ++ [x])).1 = List.replicate xs.length ⟨.pending, .nothing⟩ ++ [⟨.frameOverflow, .nothing⟩] ∧
      (feed s (xs ++ [x])).2.asmBuf = [] := by
  have pending : ∀ p q, xs = p ++ q → p ≠ [] → complete (s.asmBuf ++ p) = false := by
    rintro p q rfl _
    rw [hb, List.nil_append]
    exact h p ⟨q ++ [x], (List.append_assoc p q [x]).symm⟩
  obtain ⟨t, hbuf, hparams, hfeed⟩ := feed_run_pending s xs [x] pending (by simp [hb]; omega)
  rw [hb, List.nil_append] at hbuf
  have full : t.params.maxLen ≤ t.asmBuf.length + 1 := by
    rw [hbuf, hparams]
    omega
  rw [hfeed, feed_overflow [] (by rw [hbuf]; exact h _ List.prefix_rfl) full]
  exact ⟨rfl, rfl⟩

/-! ## The obligations -/

/-- Settles O14: the cases of the completion rule, each from its own lemma. -/
theorem completionRule : Obligations.CompletionRule :=
  fun b0 b1 rest => ⟨complete_stray b0 rest, rfl, complete_echo rest, complete_shortCode rest, complete_longCode rest,
    complete_other b1 rest⟩

/-- Settles O15: a word of format B has bits 8 to 23 reserved; of the three outcomes of ASM_BYTE, the one each
clause's hypotheses leave. -/
theorem asmByteAppendsOrEmits : Obligations.AsmByteAppendsOrEmits := by
  refine ⟨fun w seq hop => ?_, fun s x => ?_⟩
  · rw [← byte0_eq_ofNat]
    exact illegal_or_decode_of_takesNoSequence (op := .asmByte) hop rfl (reservedClear_iff .byte w)
  · change (_ → execAsmByte x s = _) ∧ (_ → _ → execAsmByte x s = _) ∧ (_ → _ → execAsmByte x s = _)
    obtain ⟨hc, he⟩ | ⟨hc, hfull, he⟩ | ⟨hc, hroom, he⟩ := execAsmByte_cases x s
    · exact ⟨fun _ => he, by simp [hc], by simp [hc]⟩
    · exact ⟨by simp [hc], fun _ _ => he, fun _ hroom => absurd hfull (by omega)⟩
    · exact ⟨by simp [hc], fun _ hfull => absurd hroom (by omega), fun _ _ => he⟩

/-- Settles O38: no prefix of the stream is complete, so it fills the buffer. -/
theorem longLengthCodesOverflow : Obligations.LongLengthCodesOverflow := by
  intro s c rest hb hC h9 hl
  obtain ⟨xs, x, hstream⟩ : ∃ xs x, 0xAA :: c :: rest = xs ++ [x] :=
    ⟨_, _, (List.dropLast_append_getLast (List.cons_ne_nil _ _)).symm⟩
  have hlen : xs.length + 1 = s.params.maxLen := by
    have := congrArg List.length hstream
    simp at this
    omega
  rw [hstream, ← hlen, Nat.add_sub_cancel]
  exact feed_fill_overflow hb hlen fun p hp => complete_prefix_longCode hC h9 (hstream ▸ hp)

/-- Settles O16: a word of format N has its low 24 bits reserved; ASM_EMPTY only responds. -/
theorem asmEmptyLeavesBuffer : Obligations.AsmEmptyLeavesBuffer :=
  ⟨fun w _ hop => illegal_or_decode_of_takesNoSequence (op := .asmEmpty) hop rfl (reservedClear_iff .none w),
    fun _ => rfl⟩

/-- Settles O17: a word of format N has its low 24 bits reserved; what ASM_CANCEL leaves has the empty buffer and the
response that a second one writes again. -/
theorem asmCancelClearsBuffer : Obligations.AsmCancelClearsBuffer :=
  ⟨fun w _ hop => illegal_or_decode_of_takesNoSequence (op := .asmCancel) hop rfl (reservedClear_iff .none w),
    fun _ => ⟨_, rfl, rfl, rfl⟩⟩

end Sys2Proof.Machine
end

section
/-! SUPPORT. DATDEC: which sequences are data frames and what their fields are (R167), the class of every other
sequence (R169), and what DATDEC answers to an operand within the instance's bound. -/

namespace Sys2Proof.Machine

/-! ## The validity test and the fields -/

/-- A slice up to the last byte but one, as what is left after dropping the bytes before it (R11). -/
theorem slice_to_end_sub_two {a : Nat} {raw : List Byte} (h : 2 ≤ raw.length) :
    slice a (raw.length - 2) raw = (raw.drop a).take (raw.length - (a + 1)) := by
  rw [slice, List.drop_take, show raw.length - 2 + 1 - a = raw.length - (a + 1) by omega]

/-- The 16-bit identifier keeps both of its bytes (R44). -/
theorem toNat_identifier (lsb msb : Byte) :
    (BitVec.ofNat 16 (msb.toNat * 256 + lsb.toNat)).toNat = msb.toNat * 256 + lsb.toNat := by
  have := lsb.isLt
  have := msb.isLt
  rw [BitVec.toNat_ofNat, Nat.mod_eq_of_lt (by omega)]

/-- The fields of a sequence that passes the validity test (R167). -/
theorem decodeDataFrame_of_valid {r1 r2 r3 : Byte} {tail raw : List Byte} (hraw : raw = 0xAA :: r1 :: r2 :: r3 :: tail)
    (hlen : 6 ≤ raw.length) (hC : r1.toNat / 16 = 0xC) :
    decodeDataFrame raw = some {
      cls := .data, idLsb := r2, idMsb := r3, id := BitVec.ofNat 16 (r3.toNat * 256 + r2.toNat), ext := extFlag r1
      dlc := lowNibble r1, payload := (raw.drop 4).take (raw.length - 5)
      disp := ((raw.drop 2).take (raw.length - 3)).reverse } := by
  rw [← slice_to_end_sub_two (by omega), ← slice_to_end_sub_two (by omega), ← identifier_eq]
  subst hraw
  exact if_pos ⟨hlen, rfl, (highNibble_eq_C r1).2 hC⟩

/-- Only a sequence that passes the validity test has fields (R167). -/
theorem valid_of_decodeDataFrame {raw : List Byte} {d : DataFields} (h : decodeDataFrame raw = some d) :
    6 ≤ raw.length ∧ raw[0]? = some 0xAA ∧ ∃ r1, raw[1]? = some r1 ∧ r1.toNat / 16 = 0xC := by
  unfold decodeDataFrame at h
  split at h
  · next r0 r1 r2 r3 rest =>
    obtain ⟨⟨hlen, rfl, hC⟩, _⟩ := Option.ite_none_right_eq_some.1 h
    exact ⟨hlen, rfl, r1, rfl, (highNibble_eq_C r1).1 hC⟩
  · cases h

/-- The class of a sequence that is no data frame, by its length and its first two bytes (R169). -/
theorem otherClass_eq (raw : List Byte) : otherClass raw =
    if raw.length = 20 ∧ raw[0]? = some 0xAA ∧ raw[1]? = some 0x55 then .command else .unknown := by
  match raw with
  | [] | [_] => simp [otherClass]
  | r0 :: r1 :: rest => simp [otherClass]

/-! ## Answers to an operand within the bound -/

/-- DATDEC on a data frame responds with its fields, and only the port changes (R8, R167). -/
theorem exec_datdec_of_some (s : State) {raw : List Byte} {d : DataFields}
    (hbound : withinBound s.params.seqMax raw = true) (h : decodeDataFrame raw = some d) :
    exec (.datdec raw) s = .next (s.respond .ok (.decoded d)) := by
  change execDatdec raw s = _
  rw [execDatdec, if_pos ((State.takes_eq_withinBound s raw).trans hbound), h]

/-- DATDEC on any other sequence raises NOT_A_DATA_FRAME with its class (R8, R167, R169). -/
theorem exec_datdec_of_none (s : State) {raw : List Byte} (hbound : withinBound s.params.seqMax raw = true)
    (h : decodeDataFrame raw = none) :
    exec (.datdec raw) s = .next (s.raise .notADataFrame (.classified (otherClass raw))) := by
  change execDatdec raw s = _
  rw [execDatdec, if_pos ((State.takes_eq_withinBound s raw).trans hbound), h]

/-! ## The obligation -/

/-- Settles O20: a word of format Q has its low 24 bits reserved; DATDEC answers by whether the sequence has fields,
which it has exactly where it passes the validity test. -/
theorem datdecClassifiesAndDecodes : Obligations.DatdecClassifiesAndDecodes := by
  refine ⟨fun w seq hop => ⟨fun hbits => ?_, fun hbits => ?_⟩, fun s raw hbound => ⟨?_, fun hinvalid => ?_⟩⟩
  · exact illegalRequest_of_reservedBits (op := .datdec) seq hop ((reservedClear_iff .sequence w).not.2 hbits)
  · have clear : Op.datdec.format.reservedClear w = true := (reservedClear_iff .sequence w).2 hbits
    exact decode_of_reservedClear hop clear (.inl rfl)
  · intro r1 r2 r3 tail hraw hlen hC
    exact ⟨_, exec_datdec_of_some s hbound (decodeDataFrame_of_valid hraw hlen hC), rfl, rfl, rfl,
      toNat_identifier r2 r3, rfl, toNat_lowNibble r1, rfl, rfl⟩
  · have noFields : decodeDataFrame raw = none :=
      Option.eq_none_iff_forall_ne_some.2 fun _ hd => hinvalid (valid_of_decodeDataFrame hd)
    rw [exec_datdec_of_none s hbound noFields, otherClass_eq]
    rfl

end Sys2Proof.Machine
end

section
/-! SUPPORT. Three places of the two loops, what the host does in each said once: the build of an injection iteration
(R217, R218), the top of a reception iteration (R203, R222), and the answer to DATDEC (R223, R224). -/

namespace Sys2Proof.Machine

/-! ## The build of an injection iteration -/

/-- Incrementing a byte wraps at 256 (R218). -/
theorem add_one_eq_ofNat (b : Byte) : b + 1 = BitVec.ofNat 8 ((b.toNat + 1) % 256) := by
  apply BitVec.eq_of_toNat_eq
  simp [BitVec.toNat_add]

/-- Random mode replaces the payload by the scheduled draws, in order, while there are enough of them (R218). -/
theorem mutate_random_scheduled {s : State} {p drawn more : List Byte} (h : s.env.randoms = drawn ++ more)
    (hlen : drawn.length = p.length) :
    mutate s .random p = (drawn, { s with env := { s.env with randoms := more } }) := by
  rw [mutate, ← hlen]
  exact s.drawBytes_scheduled drawn more h

/-- The build keeps the mutated payload and asks DATBLD to frame it (R217). -/
theorem step_of_injectBuild {s : State} {q : List Byte} {e : Environment} (hm : s.params.maxLen ≠ 0)
    (hp : s.port = .idle) (hphase : s.phase = .injectBuild)
    (hmut : mutate s s.inj.mode s.inj.payload = (q, { s with env := e })) :
    step s = .next { s with
      env := e
      inj := { s.inj with payload := q }
      port := .request (encode (.datbld s.inj.ext s.inj.idMsb s.inj.idLsb q))
      phase := .awaitDataFrame } := by
  have act : hostAct s = hostInjectBuild s := by rw [hostAct, hphase]
  rw [step_of_idle hm hp, act, hostInjectBuild, hmut]
  rfl

/-! ## The top of a reception iteration -/

theorem step_of_receiveTop {s : State} (hm : s.params.maxLen ≠ 0) (hp : s.port = .idle)
    (hphase : s.phase = .receiveTop) : step s = .next (hostReceiveTop s) := by
  rw [step_of_idle hm hp, hostAct, hphase]

/-- With the flag seen set, ASM_CANCEL is issued and the transport is not read (R203). -/
theorem hostReceiveTop_of_cancel {s : State} (h : s.checkCancel.cancel = true) :
    hostReceiveTop s = s.checkCancel.call .asmCancel .awaitCancelled :=
  if_pos h

/-- With the flag seen clear, a read that gives no byte is reported as ASM_EMPTY (R222). -/
theorem hostReceiveTop_of_empty {s s' : State} (h : s.checkCancel.cancel = false)
    (hread : s.checkCancel.readTransport = (none, s')) : hostReceiveTop s = s'.call .asmEmpty .awaitEmpty := by
  simp [hostReceiveTop, h, hread]

/-- With the flag seen clear, a byte that is read is forwarded as ASM_BYTE (R222). -/
theorem hostReceiveTop_of_byte {s s' : State} {x : Byte} (h : s.checkCancel.cancel = false)
    (hread : s.checkCancel.readTransport = (some x, s')) : hostReceiveTop s = s'.call (.asmByte x) .awaitByte := by
  simp [hostReceiveTop, h, hread]

/-! ## The answer to DATDEC -/

/-- A response that has a rendering is recorded by it, and counts one frame (R223, R224). -/
theorem step_of_awaitDecoded {s : State} {raw : List Byte} {tau : Nat} {r : Response} {o : Observation}
    (hm : s.params.maxLen ≠ 0) (hphase : s.phase = .awaitDecoded raw tau) (hp : s.port = .response r)
    (ho : rendering raw tau r = some o) :
    step s = .next { s with
      port := .idle
      phase := .dumpTop
      dump := { s.dump with count := s.dump.count + 1 }
      seen := s.seen ++ [o] } := by
  refine step_of_response hm hp ?_
  rw [hostTake, hphase]
  simp only [takeDecoded, ho]
  rfl

/-! ## The obligations -/

/-- Settles O54: the build takes what `mutate` gives, which each payload mode determines. -/
theorem payloadMutation : Obligations.PayloadMutation := by
  intro s hm hp hphase
  obtain ⟨q, e, hmut, hlen⟩ := mutate_spec s s.inj.mode s.inj.payload
  refine ⟨_, q, step_of_injectBuild hm hp hphase hmut, rfl, rfl, rfl, hlen, fun fixed => ?_,
    fun incremental i b hb => ?_, fun random more hle hr => ?_⟩
  · rw [fixed] at hmut
    exact (congrArg Prod.fst hmut).symm
  · rw [incremental] at hmut
    have hq : s.inj.payload.map (· + 1) = q := congrArg Prod.fst hmut
    rw [← hq, List.getElem?_map, hb, ← add_one_eq_ofNat]
    rfl
  · have drawn := mutate_random_scheduled hr (List.length_take_of_le hle)
    rw [random, drawn] at hmut
    exact ⟨(congrArg Prod.fst hmut).symm, (congrArg (·.2.env.randoms) hmut).symm⟩

/-- Settles O56: the check of the flag decides between ASM_CANCEL and one read, and the read between ASM_EMPTY and
ASM_BYTE. -/
theorem receptionChecksFlagBeforeReading : Obligations.ReceptionChecksFlagBeforeReading := by
  intro s sig more rd reads hm hp hphase hsig hreads
  have check := s.checkCancel_scheduled sig more hsig
  have read := s.checkCancel.readTransport_scheduled rd reads (by rw [check]; exact hreads)
  have flag : s.checkCancel.cancel = (s.cancel || sig) := by rw [check]
  refine ⟨hostReceiveTop s, step_of_receiveTop hm hp hphase, ?_⟩
  cases hc : s.cancel || sig with
  | true =>
    have set : s.checkCancel.cancel = true := flag.trans hc
    have notClear (h : s.cancel = false) : sig ≠ false := by simpa [h] using hc
    rw [hostReceiveTop_of_cancel set]
    exact ⟨rfl, set, fun _ => ⟨rfl, by rw [check]; rfl, rfl⟩, fun h h' => absurd h' (notClear h)⟩
  | false =>
    have clear : s.checkCancel.cancel = false := flag.trans hc
    have notSet : ¬ (s.cancel = true ∨ sig = true) := by simpa using hc
    cases rd with
    | none =>
      rw [hostReceiveTop_of_empty clear read]
      exact ⟨rfl, clear, fun h => absurd h notSet, fun _ _ => ⟨rfl, fun _ => ⟨rfl, rfl⟩, nofun⟩⟩
    | some x =>
      rw [hostReceiveTop_of_byte clear read]
      refine ⟨rfl, clear, fun h => absurd h notSet, fun _ _ => ⟨rfl, nofun, fun y hy => ?_⟩⟩
      cases hy
      exact ⟨rfl, rfl⟩

/-- Settles O58: both responses have a rendering. -/
theorem dumpRendersAndCounts : Obligations.DumpRendersAndCounts :=
  fun _ _ _ hm hphase => ⟨fun _ hp => step_of_awaitDecoded hm hphase hp rfl,
    fun _ hp => step_of_awaitDecoded hm hphase hp rfl⟩

end Sys2Proof.Machine
end

section
/-! SUPPORT. Reset: a request that comes before it is refused (R242), and what the host's reset between two requests
does (R240). -/

namespace Sys2Proof.Machine

/-! ## A request before the first reset -/

/-- A step with a request on the port is `serve`, whatever the reset mark says (R5). -/
theorem step_of_request {s : State} {q : Request} (hm : s.params.maxLen ≠ 0) (hp : s.port = .request q) :
    step s = serve q s := by
  rw [step, if_neg hm, hp]

/-- Without the reset mark a request is refused before it is decoded, and the buffer is not read (R242). -/
theorem serve_of_wasReset_false {s : State} (q : Request) (h : s.wasReset = false) :
    serve q s = .refused .beforeFirstReset :=
  if_neg (ne_true_of_eq_false h)

/-! ## A reset between two requests -/

/-- The scripted host's reset is one step: it resets the block and goes on in the script (R211, R240). -/
theorem step_of_scriptedReset {s : State} {rest : List HostAction} (hm : s.params.maxLen ≠ 0) (hp : s.port = .idle)
    (hphase : s.phase = .scripted) (hscript : s.script = .reset :: rest) :
    step s = .next { s.applyReset with script := rest } := by
  rw [step_of_idle hm hp, hostAct, hphase]
  simp only [hostScripted, hscript]

/-! ## The obligations -/

/-- Settles O30: the step is `serve`, which looks at the reset mark first. -/
theorem requestBeforeResetIsRefused : Obligations.RequestBeforeResetIsRefused :=
  fun _ q hm hw hp => (step_of_request hm hp).trans (serve_of_wasReset_false q hw)

/-- Settles O34: the step is the scripted reset; ASM_CANCEL answers in every state and leaves the buffer empty too. -/
theorem resetClearsBuffer : Obligations.ResetClearsBuffer := by
  intro s rest hm hp hphase hscript
  obtain ⟨_, _, answered, _⟩ := exec_answers .asmCancel s
  exact ⟨step_of_scriptedReset hm hp hphase hscript, _, answered, exec_asmCancel_asmBuf answered⟩

end Sys2Proof.Machine
end

section
/-! SUPPORT. The encoder is the inverse of the decoder: an encoded instruction decodes to itself, and a request that
decodes is the encoded form of what it decodes to (R69 to R73). -/

namespace Sys2Proof.Machine

/-! ## From an instruction to its request and back -/

/-- Every instruction's encoded form carries its operation code, no reserved bit, and a sequence only where its format
takes one (R69 to R72). -/
theorem wordForm (i : Instr) : Laws.WordForm.Statement i := by
  cases i with
  | cksum q => exact Laws.WordForm.cksum q
  | hexid q => exact Laws.WordForm.hexid q
  | hexpl m q => exact Laws.WordForm.hexpl m q
  | asmByte x => exact Laws.WordForm.asmByte x
  | asmEmpty => exact Laws.WordForm.asmEmpty
  | asmCancel => exact Laws.WordForm.asmCancel
  | cfgbld a b c => exact Laws.WordForm.cfgbld a b c
  | datbld e m l p => exact Laws.WordForm.datbld e m l p
  | datdec q => exact Laws.WordForm.datdec q

/-- The operands read off an instruction's encoded form are the instruction's own (R70). -/
theorem operandsOf_encode (i : Instr) : operandsOf (encode i).w (encode i).seq i.op = i := by
  cases i with
  | datbld e m l p =>
    simp only [encode, operandsOf, Instr.op, byte1_wordOf, byte0_wordOf]
    exact congrArg (Instr.datbld · m l p) (extField_wordOf _ m l e)
  | _ => simp [encode, operandsOf, Instr.op]

/-- An encoded instruction decodes to itself (R69 to R71). -/
@[simp] theorem decode_encode (i : Instr) : decode (encode i) = .ok i := by
  obtain ⟨hop, clear, noSequence, _⟩ := wordForm i
  have number : opNumber (encode i).w = i.op.code.toNat := by rw [← hop, toNat_opField, opNumber]
  have sequence : i.op.format.takesSequence = true ∨ (encode i).seq = [] := by
    cases ht : i.op.format.takesSequence with
    | true => exact .inl rfl
    | false => exact .inr (noSequence ht)
  exact (decode_of_reservedClear number clear sequence).trans (congrArg _ (operandsOf_encode i))

/-! ## From a request to its instruction and back -/

/-- A word is written from its four bytes, each given as a number (R69). -/
theorem wordOf_eq {w : Word} {a b c d : Byte} (ha : opNumber w = a.toNat) (hb : b.toNat = w.toNat / 2 ^ 16 % 2 ^ 8)
    (hc : c.toNat = w.toNat / 2 ^ 8 % 2 ^ 8) (hd : d.toNat = w.toNat % 2 ^ 8) : wordOf a b c d = w := by
  apply BitVec.eq_of_toNat_eq
  rw [opNumber] at ha
  rw [toNat_wordOf]
  omega

/-- The byte that holds the extended bit, where the bits above it are clear (R70). -/
theorem toNat_extByte {w : Word} (h : w.toNat / 2 ^ 17 % 2 ^ 7 = 0) :
    (if extField w then 1 else 0 : Byte).toNat = w.toNat / 2 ^ 16 % 2 ^ 8 := by
  rw [extField_eq_beq]
  by_cases hbit : w.toNat / 2 ^ 16 % 2 = 1
  · simp only [hbit, beq_self_eq_true, if_true]
    change 1 = _
    omega
  · rw [if_neg (by simpa using hbit)]
    change 0 = _
    omega

/-- A request whose reserved bits are clear, with no sequence beyond its format, is the encoded form of its operands
(R70, R72). -/
theorem encode_operandsOf {w : Word} {seq : List Byte} {op : Op} (hop : opNumber w = op.code.toNat)
    (hr : op.format.reservedClear w = true) (hs : op.format.takesSequence = true ∨ seq = []) :
    encode (operandsOf w seq op) = ⟨w, seq⟩ := by
  have clear := (reservedClear_iff op.format w).1 hr
  have noOperand : w.toNat % 2 ^ 24 = 0 → wordOf op.code 0 0 0 = w := fun h =>
    wordOf_eq hop (by change 0 = _; omega) (by change 0 = _; omega) (by change 0 = _; omega)
  have oneByte : w.toNat / 2 ^ 8 % 2 ^ 16 = 0 → wordOf op.code 0 0 (byte0 w) = w := fun h =>
    wordOf_eq hop (by change 0 = _; omega) (by change 0 = _; omega) (toNat_byte0 w)
  have noSequence : op.format.takesSequence = false → seq = [] := fun h => hs.resolve_left (by simp [h])
  cases op with
  | cksum => exact congrArg (Request.mk · seq) (noOperand clear)
  | hexid => exact congrArg (Request.mk · seq) (noOperand clear)
  | hexpl => exact congrArg (Request.mk · seq) (oneByte clear)
  | asmByte => exact congr (congrArg Request.mk (oneByte clear)) (noSequence rfl).symm
  | asmEmpty => exact congr (congrArg Request.mk (noOperand clear)) (noSequence rfl).symm
  | asmCancel => exact congr (congrArg Request.mk (noOperand clear)) (noSequence rfl).symm
  | cfgbld =>
    have threeBytes : wordOf Op.cfgbld.code (byte2 w) (byte1 w) (byte0 w) = w :=
      wordOf_eq hop (toNat_byte2 w) (toNat_byte1 w) (toNat_byte0 w)
    exact congr (congrArg Request.mk threeBytes) (noSequence rfl).symm
  | datbld =>
    have fields := wordOf_eq hop (toNat_extByte clear) (toNat_byte1 w) (toNat_byte0 w)
    exact congrArg (Request.mk · seq) fields
  | datdec => exact congrArg (Request.mk · seq) (noOperand clear)

/-- What decodes has an operation's number, its reserved bits clear, and a sequence only where the format takes one
(R70 to R73). -/
theorem wellFormed_of_decode {r : Request} {i : Instr} (h : decode r = .ok i) :
    ∃ op : Op, opNumber r.w = op.code.toNat ∧ op.format.reservedClear r.w = true ∧
      (op.format.takesSequence = true ∨ r.seq = []) ∧ i = operandsOf r.w r.seq op := by
  cases ho : Op.ofCode (opField r.w) with
  | none => simp [decode, ho] at h
  | some op =>
    have number := opNumber_of_ofCode ho
    change decode ⟨r.w, r.seq⟩ = _ at h
    rw [decode_of_opNumber r.seq number] at h
    split at h
    · next clear =>
      split at h
      · next sequence =>
        cases h
        exact ⟨op, number, clear, by simpa using sequence, rfl⟩
      · cases h
    · cases h

/-! ## The obligations -/

/-- Settles O1: the word form of an instruction lets it through the decoder, which reads its operands back. -/
theorem decodeOfEncode : Obligations.DecodeOfEncode :=
  decode_encode

/-- Settles O2: the encoder puts each field of an accepted request back in its place, and what it leaves zero was
reserved. -/
theorem encodeOfDecode : Obligations.EncodeOfDecode := by
  intro r i h
  obtain ⟨op, number, clear, sequence, rfl⟩ := wellFormed_of_decode h
  exact encode_operandsOf number clear sequence

/-- Settles O3: each request is the encoded form of its instruction. -/
theorem wordsOfTheSpecDecode : Obligations.WordsOfTheSpecDecode :=
  ⟨decode_encode (.cksum _), decode_encode (.hexid _), decode_encode (.hexpl 0x08 _), decode_encode (.asmByte 0xAA),
    decode_encode (.cfgbld 0x03 0x01 0x00), decode_encode (.datbld true 0x01 0x23 _)⟩

/-- Settles O6: with the reset mark set, `serve` is the decoded instruction's meaning. -/
theorem stepRunsDecodedInstruction : Obligations.StepRunsDecodedInstruction :=
  fun _ _ _ ⟨hm, hw, hp⟩ hd => step_of_decode hm hw hp hd

end Sys2Proof.Machine
end

section
/-! SUPPORT. The block as a function: what it answers and what it leaves in the buffer depend on the parameters and the
buffer alone (R13, R30, R53), and no step touches a parameter (R6, R27). -/

namespace Sys2Proof.Machine

/-! ## The response and the buffer of a served request -/

/-- What ASM_BYTE answers to `x`, and the buffer it leaves (R134). -/
def asmByteResult (x : Byte) (p : Params) (buf : List Byte) : Response × List Byte :=
  if complete (buf ++ [x]) then (⟨.frame, .frame (buf ++ [x])⟩, [])
  else if p.maxLen ≤ (buf ++ [x]).length then (⟨.frameOverflow, .nothing⟩, [])
  else (⟨.pending, .nothing⟩, buf ++ [x])

theorem exec_asmByte_eq (x : Byte) (s : State) :
    exec (.asmByte x) s = .next { s with
      asmBuf := (asmByteResult x s.params s.asmBuf).2
      port := .response (asmByteResult x s.params s.asmBuf).1 } := by
  rw [asmByteResult]
  simp only [exec, execAsmByte]
  split
  · rfl
  · split <;> rfl

/-- An instruction's response and the buffer it leaves are functions of the parameters and the buffer, and nothing else
changes (R13, R22, R53). -/
theorem exec_of_block (i : Instr) : ∃ f : Params → List Byte → Response × List Byte, ∀ s : State,
    exec i s = .next { s with asmBuf := (f s.params s.asmBuf).2, port := .response (f s.params s.asmBuf).1 } := by
  by_cases hi : i.op ∈ [Op.asmByte, Op.asmCancel]
  · obtain ⟨x, rfl⟩ | rfl := eq_asmByte_or_asmCancel hi
    · exact ⟨asmByteResult x, exec_asmByte_eq x⟩
    · exact ⟨fun _ _ => (⟨.cancelled, .nothing⟩, []), fun _ => rfl⟩
  · obtain ⟨f, hf⟩ := exec_response_of_params i hi
    exact ⟨fun p b => (f p, b), hf⟩

/-- After the reset, serving a request is such a function too: an ill-formed one gets ILLEGAL_OP (R72, R73). -/
theorem serve_of_block (q : Request) : ∃ f : Params → List Byte → Response × List Byte, ∀ s : State,
    s.wasReset = true → serve q s =
      .next { s with asmBuf := (f s.params s.asmBuf).2, port := .response (f s.params s.asmBuf).1 } := by
  cases hd : decode q with
  | error e => exact ⟨fun _ b => (⟨.illegalOp, .nothing⟩, b), fun s hw => by rw [serve, if_pos hw, hd]; rfl⟩
  | ok i =>
    obtain ⟨f, hf⟩ := exec_of_block i
    exact ⟨f, fun s hw => by rw [serve, if_pos hw, hd]; exact hf s⟩

/-! ## The obligations -/

/-- Settles O26: after the reset every request is answered, and only port and buffer are written. -/
theorem servedRequestGetsOneResponse : Obligations.ServedRequestGetsOneResponse := by
  intro s q serving
  have ⟨_, hw, _⟩ := serving
  obtain ⟨f, hf⟩ := serve_of_block q
  exact ⟨_, _, (step_of_serving serving).trans (hf s hw)⟩

/-- Settles O27: response and buffer are a function of what the two machines share. -/
theorem blockIgnoresTheHost : Obligations.BlockIgnoresTheHost := by
  intro s₁ s₂ t₁ q hp₁ hp₂ hparams hbuf hreset hstep
  obtain ⟨hm, _⟩ := step_cases hstep
  rw [step_of_request hm hp₁] at hstep
  obtain ⟨hw, _⟩ := serve_cases hstep
  obtain ⟨f, hf⟩ := serve_of_block q
  rw [hf s₁ hw] at hstep
  cases hstep
  rw [step_of_request (hparams ▸ hm) hp₂, hf s₂ (hreset ▸ hw), hparams, hbuf]

/-- Settles O29: neither block nor host writes a parameter. -/
theorem parametersNeverChange : Obligations.ParametersNeverChange := by
  intro s t hstep
  obtain ⟨_, ⟨q, _, _, served⟩ | ⟨r, _, taken⟩ | ⟨_, rfl⟩⟩ := step_cases hstep
  · obtain ⟨r, b, rfl⟩ := serve_frame served
    rfl
  · obtain ⟨unchanged, _⟩ := hostTake_frame taken
    exact unchanged
  · obtain ⟨unchanged, _⟩ := hostAct_frame s
    exact unchanged

/-- Settles O31: the step looks at `MAX_LEN` before anything else. -/
theorem maxLenZeroIsRefused : Obligations.MaxLenZeroIsRefused :=
  fun _ h => if_pos h

end Sys2Proof.Machine
end

section
/-! SUPPORT. The buffer invariant: the block and the host's resets keep it (R21), and what it says of an open buffer and
of the frames that come out of one (R23, R139). -/

namespace Sys2Proof.Machine

/-- An empty buffer satisfies the invariant on any legal instance (R6, R21). -/
theorem BufferInv.of_empty {t : State} (hm : t.params.maxLen ≠ 0) (h : t.asmBuf = []) : BufferInv t := by
  rw [BufferInv, h]
  exact ⟨Nat.pos_of_ne_zero hm, rfl⟩

/-- The invariant looks at the buffer and at `MAX_LEN` alone. -/
theorem BufferInv.of_eq {s t : State} (h : BufferInv s) (hparams : t.params = s.params) (hbuf : t.asmBuf = s.asmBuf) :
    BufferInv t := by
  rw [BufferInv, hparams, hbuf]
  exact h

/-- ASM_BYTE leaves the buffer empty, or incomplete and below `MAX_LEN` (R134). -/
theorem bufferInv_of_exec_asmByte {x : Byte} {s t : State} (hm : s.params.maxLen ≠ 0)
    (h : exec (.asmByte x) s = .next t) : BufferInv t := by
  change execAsmByte x s = .next t at h
  obtain ⟨_, he⟩ | ⟨_, _, he⟩ | ⟨incomplete, room, he⟩ := execAsmByte_cases x s
  all_goals
    rw [he] at h
    cases h
  · exact .of_empty hm rfl
  · exact .of_empty hm rfl
  · exact ⟨by simpa using room, incomplete⟩

/-- Every instruction keeps the buffer invariant. -/
theorem BufferInv.exec {i : Instr} {s t : State} (inv : BufferInv s) (hm : s.params.maxLen ≠ 0)
    (h : exec i s = .next t) : BufferInv t := by
  obtain ⟨r, b, frame, _⟩ := exec_answers i s
  have hparams : t.params = s.params := by
    rw [frame] at h
    cases h
    rfl
  by_cases hi : i.op ∈ [Op.asmByte, Op.asmCancel]
  · obtain ⟨x, rfl⟩ | rfl := eq_asmByte_or_asmCancel hi
    · exact bufferInv_of_exec_asmByte hm h
    · exact .of_empty (hparams ▸ hm) (exec_asmCancel_asmBuf h)
  · exact inv.of_eq hparams (exec_asmBuf_of_other hi h)

/-- Settles O32: instructions keep the invariant, and the host changes the buffer by a reset only. -/
theorem stepKeepsBufferInvariant : Obligations.StepKeepsBufferInvariant := by
  intro s t inv hstep
  obtain ⟨hm, ⟨q, _, _, served⟩ | ⟨r, _, taken⟩ | ⟨_, rfl⟩⟩ := step_cases hstep
  · obtain ⟨_, ⟨_, _, rfl⟩ | ⟨i, _, executed⟩⟩ := serve_cases served
    · exact inv
    · exact inv.exec hm executed
  · obtain ⟨hparams, hbuf, _⟩ := hostTake_frame taken
    exact inv.of_eq hparams hbuf
  · obtain ⟨hparams, _, hbuf | ⟨hbuf, _⟩⟩ := hostAct_frame s
    · exact inv.of_eq hparams hbuf
    · exact .of_empty (hparams ▸ hm) hbuf

/-! ## Open buffers -/

/-- A buffer that is not complete begins with 0xAA (R23, R131). -/
theorem eq_of_open {b0 : Byte} {rest : List Byte} (h : complete (b0 :: rest) = false) : b0 = 0xAA := by
  by_contra hne
  exact Bool.false_ne_true (h.symm.trans (complete_stray b0 rest hne))

/-- Its second byte announces an echo or a data frame (R23, R131). -/
theorem second_of_open {b0 b1 : Byte} {rest : List Byte} (h : complete (b0 :: b1 :: rest) = false) :
    b1 = 0x55 ∨ b1.toNat / 16 = 0xC := by
  obtain rfl := eq_of_open h
  by_contra hne
  rw [not_or] at hne
  obtain ⟨h55, hC⟩ := hne
  exact Bool.false_ne_true (h.symm.trans (complete_other b1 rest h55 hC))

/-- Settles O35: any other first or second byte would have completed the buffer. -/
theorem openBufferShape : Obligations.OpenBufferShape := by
  intro s inv
  obtain ⟨_, isOpen⟩ := inv
  match s.asmBuf, isOpen with
  | [], _ => simp
  | [b0], isOpen => simp [eq_of_open isOpen]
  | b0 :: b1 :: rest, isOpen => simpa using ⟨eq_of_open isOpen, second_of_open isOpen⟩

/-! ## Emitted frames -/

/-- The four shapes of R139. -/
def FrameShape (f : List Byte) : Prop :=
  (∃ b, f = [b] ∧ b ≠ 0xAA) ∨
  (∃ b, f = [0xAA, b] ∧ b ≠ 0x55 ∧ b.toNat / 16 ≠ 0xC) ∨
  (∃ tail, f = 0xAA :: 0x55 :: tail ∧ f.length = 20) ∨
  (∃ c tail, f = 0xAA :: c :: tail ∧ c.toNat / 16 = 0xC ∧ c.toNat % 16 ≤ 8 ∧ f.length = c.toNat % 16 + 5)

/-- An open buffer that one byte completes has one of the four shapes: a length the completion rule asks for is met
exactly, because one byte less did not meet it (R131, R139). -/
theorem frameShape_of_completed {buf : List Byte} {x : Byte} (isOpen : complete buf = false)
    (completed : complete (buf ++ [x]) = true) : FrameShape (buf ++ [x]) := by
  match buf, isOpen, completed with
  | [], _, completed =>
    refine .inl ⟨x, rfl, ?_⟩
    rintro rfl
    simp [complete] at completed
  | [b0], isOpen, completed =>
    obtain rfl := eq_of_open isOpen
    have not_echo : x ≠ 0x55 := by
      rintro rfl
      exact Bool.false_ne_true completed
    have not_data : x.toNat / 16 ≠ 0xC := fun hC => by
      have short : complete [0xAA, x] = false := by
        rw [complete_data x [] hC, Bool.and_eq_false_iff]
        exact .inr (decide_eq_false (by simp))
      exact Bool.false_ne_true (short.symm.trans completed)
    exact .inr (.inl ⟨x, rfl, not_echo, not_data⟩)
  | b0 :: b1 :: rest, isOpen, completed =>
    obtain rfl := eq_of_open isOpen
    simp only [List.cons_append] at completed ⊢
    obtain rfl | hC := second_of_open isOpen
    · rw [complete_echo, decide_eq_false_iff_not] at isOpen
      rw [complete_echo, decide_eq_true_iff, List.length_append, List.length_singleton] at completed
      exact .inr (.inr (.inl ⟨rest ++ [x], rfl, by simp; omega⟩))
    · have short : b1.toNat % 16 ≤ 8 := by
        by_contra long
        exact Bool.false_ne_true ((complete_longCode _ hC (by omega)).symm.trans completed)
      rw [complete_shortCode _ hC short, decide_eq_false_iff_not] at isOpen
      rw [complete_shortCode _ hC short, decide_eq_true_iff, List.length_append, List.length_singleton] at completed
      exact .inr (.inr (.inr ⟨b1, rest ++ [x], rfl, hC, short, by simp; omega⟩))

/-- Settles O36: the frame is the open buffer with the byte that completed it; the buffer was below `MAX_LEN`. -/
theorem emittedFrameShapes : Obligations.EmittedFrameShapes := by
  intro s t x ⟨bound, isOpen⟩ h
  change execAsmByte x s = .next t at h
  obtain ⟨completed, he⟩ | ⟨_, full, he⟩ | ⟨_, _, he⟩ := execAsmByte_cases x s
  all_goals
    rw [he] at h
    cases h
  · refine ⟨fun f hf => ?_, nofun⟩
    cases hf
    exact ⟨by simpa using bound, frameShape_of_completed isOpen completed⟩
  · exact ⟨nofun, fun _ => by omega⟩
  · exact ⟨nofun, nofun⟩

end Sys2Proof.Machine
end

section
/-! SUPPORT. What a move of the host can be, said once: one constructor for each outcome of taking a response and for
each outcome of acting, with the tie of both to the model's `hostTake` and `hostAct` (R211 to R224). -/

namespace Sys2Proof.Machine

/-! ## Taking a response -/

/-- The outcomes of taking a response, by the place the host stands in. -/
inductive Taken (s : State) : Response → State → Prop
  | recorded {r : Response} (hphase : s.phase = .scripted) : Taken s r (s.take.observe (.response r))
  | identifierRefused {r : Response} {a : RunInputs} {g : InjectInputs} {speed : Byte} {e : RunEnd}
      (hphase : s.phase = .awaitIdentifier a g speed) : Taken s r (s.take.goTo (.ended e))
  | identifierRead {r : Response} {a : RunInputs} {g : InjectInputs} {speed lsb msb : Byte}
      (hphase : s.phase = .awaitIdentifier a g speed) :
      Taken s r ({ s with inj := ⟨s.inj.payload, g.mode, g.intervalMs, extOf a.ftype, lsb, msb⟩ }.call
        (.hexpl Config.hexMaxLenReference g.payload) (.awaitPayload a g speed))
  | payloadRefused {r : Response} {a : RunInputs} {g : InjectInputs} {speed : Byte} {o : List Observation} {e : RunEnd}
      (hphase : s.phase = .awaitPayload a g speed) : Taken s r ({ s.take with seen := o }.goTo (.ended e))
  | payloadRead {r : Response} {a : RunInputs} {g : InjectInputs} {speed : Byte} {o : List Observation}
      {out : List Byte} (hphase : s.phase = .awaitPayload a g speed) (hlow : 1 ≤ out.length) (hhigh : out.length ≤ 8) :
      Taken s r ({ s.take with seen := o, inj := { s.inj with payload := out } }.goTo (.openTransport a speed))
  | configured {f : List Byte} {m : RunMode} (hphase : s.phase = .awaitConfiguration m) :
      Taken s ⟨.ok, .frame f⟩ (writeFrame f (loopTop m) s)
  | injected {f : List Byte} (hphase : s.phase = .awaitDataFrame) :
      Taken s ⟨.ok, .frame f⟩ (writeFrame f .injectTop s)
  | cancelled {r : Response} (hphase : s.phase = .awaitCancelled) :
      Taken s r (s.take.stamp.2.goTo (.ended .stopped))
  | empty {r : Response} (hphase : s.phase = .awaitEmpty) : Taken s r (s.take.goTo .pollWait)
  | pending {r : Response} (hphase : s.phase = .awaitByte) : Taken s r (s.take.goTo .receiveTop)
  | overflow {r : Response} (hphase : s.phase = .awaitByte) :
      Taken s r ((s.take.stamp.2.observe (.receiveError s.take.stamp.1)).goTo .dumpTop)
  | received {r : Response} {f : List Byte} (hphase : s.phase = .awaitByte) :
      Taken s r (s.take.stamp.2.call (.datdec f) (.awaitDecoded f s.take.stamp.1))
  | rendered {r : Response} {raw : List Byte} {tau : Nat} {o : Observation}
      (hphase : s.phase = .awaitDecoded raw tau) :
      Taken s r ({ s.take.observe o with dump := { s.dump with count := s.dump.count + 1 } }.goTo .dumpTop)

theorem taken_of_takeIdentifier {a : RunInputs} {g : InjectInputs} {speed : Byte} {r : Response} {s t : State}
    (hphase : s.phase = .awaitIdentifier a g speed) (h : takeIdentifier a g speed r s = some t) : Taken s r t := by
  unfold takeIdentifier at h
  split at h
  · split at h
    · cases h
      exact .identifierRefused hphase
    · obtain ⟨_, h⟩ := Option.ite_none_right_eq_some.1 h
      cases h
      exact .identifierRefused hphase
  · obtain ⟨_, h⟩ := Option.ite_none_right_eq_some.1 h
    cases h
    exact .identifierRead hphase
  · cases h

theorem taken_of_takePayload {a : RunInputs} {g : InjectInputs} {speed : Byte} {r : Response} {s t : State}
    (hphase : s.phase = .awaitPayload a g speed) (h : takePayload a speed r s = some t) : Taken s r t := by
  unfold takePayload at h
  split at h
  · obtain ⟨_, h⟩ := Option.ite_none_right_eq_some.1 h
    cases h
    exact .payloadRefused (o := s.seen) hphase
  · next out trunc _ =>
    obtain ⟨_, h⟩ := Option.ite_none_right_eq_some.1 h
    by_cases hlen : out.length = 0 ∨ 8 < out.length
    · simp only [if_pos hlen] at h
      cases h
      exact .payloadRefused hphase
    · simp only [if_neg hlen] at h
      cases h
      exact .payloadRead hphase (by omega) (by omega)
  · cases h

theorem taken_of_takeConfiguration {m : RunMode} {r : Response} {s t : State}
    (hphase : s.phase = .awaitConfiguration m) (h : takeConfiguration m r s = some t) : Taken s r t := by
  obtain ⟨st, res⟩ := r
  cases res with
  | frame f =>
    obtain ⟨rfl, h⟩ := Option.ite_none_right_eq_some.1 h
    cases h
    exact .configured hphase
  | _ => cases h

theorem taken_of_takeDataFrame {r : Response} {s t : State} (hphase : s.phase = .awaitDataFrame)
    (h : takeDataFrame r s = some t) : Taken s r t := by
  obtain ⟨st, res⟩ := r
  cases res with
  | frame f =>
    obtain ⟨rfl, h⟩ := Option.ite_none_right_eq_some.1 h
    cases h
    exact .injected hphase
  | _ => cases h

theorem taken_of_takeByte {r : Response} {s t : State} (hphase : s.phase = .awaitByte)
    (h : takeByte r s = some t) : Taken s r t := by
  unfold takeByte at h
  split at h
  · split at h
    · cases h
      exact .pending hphase
    · obtain ⟨_, h⟩ := Option.ite_none_right_eq_some.1 h
      cases h
      exact .overflow hphase
  · obtain ⟨_, h⟩ := Option.ite_none_right_eq_some.1 h
    cases h
    exact .received hphase
  · cases h

theorem taken_of_takeDecoded {raw : List Byte} {tau : Nat} {r : Response} {s t : State}
    (hphase : s.phase = .awaitDecoded raw tau) (h : takeDecoded raw tau r s = some t) : Taken s r t := by
  unfold takeDecoded at h
  split at h
  · cases h
    exact .rendered hphase
  · cases h

/-- What `hostTake` gives is one of the outcomes. -/
theorem taken_of_hostTake {r : Response} {s t : State} (h : hostTake r s = some t) : Taken s r t := by
  rw [hostTake] at h
  cases hphase : s.phase <;> rw [hphase] at h
  case scripted =>
    cases h
    exact .recorded hphase
  case awaitIdentifier => exact taken_of_takeIdentifier hphase h
  case awaitPayload => exact taken_of_takePayload hphase h
  case awaitConfiguration => exact taken_of_takeConfiguration hphase h
  case awaitDataFrame => exact taken_of_takeDataFrame hphase h
  case awaitCancelled =>
    obtain ⟨_, h⟩ := Option.ite_none_right_eq_some.1 h
    cases h
    exact .cancelled hphase
  case awaitEmpty =>
    obtain ⟨_, h⟩ := Option.ite_none_right_eq_some.1 h
    cases h
    exact .empty hphase
  case awaitByte => exact taken_of_takeByte hphase h
  case awaitDecoded => exact taken_of_takeDecoded hphase h
  all_goals cases h

/-! ## Acting -/

/-- The outcomes of the host's move on an idle port, by the place the host stands in. -/
inductive Acted (s : State) : State → Prop
  | waits (hphase : waiting s.phase = true) : Acted s s
  | finished {e : RunEnd} (hphase : s.phase = .ended e) : Acted s s
  | scriptDone (hphase : s.phase = .scripted) : Acted s s
  | scriptedReset {rest : List HostAction} (hphase : s.phase = .scripted) :
      Acted s { s.applyReset with script := rest }
  | scriptedRequest {q : Request} {rest : List HostAction} (hphase : s.phase = .scripted) :
      Acted s ({ s with script := rest }.issue q)
  | started {a : RunInputs} {limit : Option Nat} (hphase : s.phase = .start a) :
      Acted s { s.applyReset with cancel := false, dump := ⟨0, limit⟩, phase := .lookUpSpeed a }
  | speedUnmapped {a : RunInputs} (hphase : s.phase = .lookUpSpeed a) : Acted s (s.goTo (.ended .invalidSpeed))
  | identifierAsked {a : RunInputs} {g : InjectInputs} {speed : Byte} (hphase : s.phase = .lookUpSpeed a) :
      Acted s (s.call (.hexid g.identifier) (.awaitIdentifier a g speed))
  | validationSkipped {a : RunInputs} {l : Option Nat} {speed : Byte} (hphase : s.phase = .lookUpSpeed a)
      (hmode : a.mode = .dump l) : Acted s (s.goTo (.openTransport a speed))
  | openFailed {a : RunInputs} {speed : Byte} (hphase : s.phase = .openTransport a speed) :
      Acted s ((s.openTransport a.path a.baud).2.goTo (.ended .transportOpenFailed))
  | configurationAsked {a : RunInputs} {speed ftype mode : Byte} (hphase : s.phase = .openTransport a speed) :
      Acted s ((s.openTransport a.path a.baud).2.call (.cfgbld speed ftype mode) (.awaitConfiguration a.mode))
  | stopped (hphase : s.phase = .injectTop ∨ s.phase = .dumpTop) : Acted s (s.checkCancel.goTo (.ended .stopped))
  | paced (hphase : s.phase = .injectTop) : Acted s (s.checkCancel.goTo .injectSleep)
  | unpaced (hphase : s.phase = .injectTop) : Acted s (s.checkCancel.goTo .injectBuild)
  | woken (hphase : s.phase = .injectSleep) : Acted s (s.goTo .injectBuild)
  | frameAsked {p : List Byte} {e : Environment} (hphase : s.phase = .injectBuild)
      (hlen : p.length = s.inj.payload.length) :
      Acted s ({ s with env := e, inj := { s.inj with payload := p } }.call
        (.datbld s.inj.ext s.inj.idMsb s.inj.idLsb p) .awaitDataFrame)
  | limitReached (hphase : s.phase = .dumpTop) : Acted s (s.checkCancel.goTo (.ended .limitReached))
  | receiving (hphase : s.phase = .dumpTop) (hlimit : Machine.limitReached s.dump = false) :
      Acted s (s.checkCancel.goTo .receiveTop)
  | cancelAsked (hphase : s.phase = .receiveTop) : Acted s (s.checkCancel.call .asmCancel .awaitCancelled)
  | emptyReported (hphase : s.phase = .receiveTop) :
      Acted s (s.checkCancel.readTransport.2.call .asmEmpty .awaitEmpty)
  | byteForwarded {x : Byte} (hphase : s.phase = .receiveTop) :
      Acted s (s.checkCancel.readTransport.2.call (.asmByte x) .awaitByte)
  | polled (hphase : s.phase = .pollWait) : Acted s (s.goTo .receiveTop)

theorem acted_hostScripted {s : State} (hphase : s.phase = .scripted) : Acted s (hostScripted s) := by
  unfold hostScripted
  split
  · exact .scriptDone hphase
  · exact .scriptedReset hphase
  · exact .scriptedRequest hphase

theorem acted_hostLookUpSpeed {a : RunInputs} {s : State} (hphase : s.phase = .lookUpSpeed a) :
    Acted s (hostLookUpSpeed a s) := by
  unfold hostLookUpSpeed
  split
  · exact .speedUnmapped hphase
  · split
    · exact .identifierAsked hphase
    · next hmode => exact .validationSkipped hphase hmode

theorem acted_hostOpen {a : RunInputs} {speed : Byte} {s : State} (hphase : s.phase = .openTransport a speed) :
    Acted s (hostOpen a speed s) := by
  unfold hostOpen
  by_cases opened : (s.openTransport a.path a.baud).1 = true
  · simp only [if_pos opened]
    exact .configurationAsked hphase
  · simp only [if_neg opened]
    exact .openFailed hphase

/-- With the flag seen set, the injection ends (R217). -/
theorem hostInjectTop_of_cancel {s : State} (h : s.checkCancel.cancel = true) :
    hostInjectTop s = s.checkCancel.goTo (.ended .stopped) :=
  if_pos h

/-- With the flag seen clear, an interval of zero goes to the build at once (R217). -/
theorem hostInjectTop_of_unpaced {s : State} (h : s.checkCancel.cancel = false) (hi : s.inj.intervalMs = 0) :
    hostInjectTop s = s.checkCancel.goTo .injectBuild :=
  (if_neg (by simp [h])).trans (if_pos hi)

/-- With the flag seen clear, any other interval goes to the sleep (R217). -/
theorem hostInjectTop_of_paced {s : State} (h : s.checkCancel.cancel = false) (hi : s.inj.intervalMs ≠ 0) :
    hostInjectTop s = s.checkCancel.goTo .injectSleep :=
  (if_neg (by simp [h])).trans (if_neg hi)

theorem acted_hostInjectTop {s : State} (hphase : s.phase = .injectTop) : Acted s (hostInjectTop s) := by
  cases flag : s.checkCancel.cancel with
  | true =>
    rw [hostInjectTop_of_cancel flag]
    exact .stopped (.inl hphase)
  | false =>
    by_cases interval : s.inj.intervalMs = 0
    · rw [hostInjectTop_of_unpaced flag interval]
      exact .unpaced hphase
    · rw [hostInjectTop_of_paced flag interval]
      exact .paced hphase

theorem acted_hostInjectBuild {s : State} (hphase : s.phase = .injectBuild) : Acted s (hostInjectBuild s) := by
  obtain ⟨p, e, mutated, hlen⟩ := mutate_spec s s.inj.mode s.inj.payload
  rw [hostInjectBuild, mutated]
  exact .frameAsked hphase hlen

/-- With the flag seen set, the Dump Loop ends before the limit is looked at (R221). -/
theorem hostDumpTop_of_cancel {s : State} (h : s.checkCancel.cancel = true) :
    hostDumpTop s = s.checkCancel.goTo (.ended .stopped) :=
  if_pos h

/-- With the flag seen clear, a limit that is reached ends the Dump Loop (R221, R224). -/
theorem hostDumpTop_of_limit {s : State} (h : s.checkCancel.cancel = false) (hl : Machine.limitReached s.dump = true) :
    hostDumpTop s = s.checkCancel.goTo (.ended .limitReached) :=
  (if_neg (by simp [h])).trans (if_pos hl)

/-- With the flag seen clear and no limit reached, a reception cycle begins (R221). -/
theorem hostDumpTop_of_room {s : State} (h : s.checkCancel.cancel = false) (hl : Machine.limitReached s.dump = false) :
    hostDumpTop s = s.checkCancel.goTo .receiveTop :=
  (if_neg (by simp [h])).trans (if_neg (by simp [hl]))

theorem acted_hostDumpTop {s : State} (hphase : s.phase = .dumpTop) : Acted s (hostDumpTop s) := by
  cases flag : s.checkCancel.cancel with
  | true =>
    rw [hostDumpTop_of_cancel flag]
    exact .stopped (.inr hphase)
  | false =>
    cases limit : Machine.limitReached s.dump with
    | true =>
      rw [hostDumpTop_of_limit flag limit]
      exact .limitReached hphase
    | false =>
      rw [hostDumpTop_of_room flag limit]
      exact .receiving hphase limit

theorem acted_hostReceiveTop {s : State} (hphase : s.phase = .receiveTop) : Acted s (hostReceiveTop s) := by
  cases flag : s.checkCancel.cancel with
  | true =>
    rw [hostReceiveTop_of_cancel flag]
    exact .cancelAsked hphase
  | false =>
    cases read : s.checkCancel.readTransport.1 with
    | none =>
      rw [hostReceiveTop_of_empty (s' := s.checkCancel.readTransport.2) flag (by rw [← read])]
      exact .emptyReported hphase
    | some x =>
      rw [hostReceiveTop_of_byte (s' := s.checkCancel.readTransport.2) (x := x) flag (by rw [← read])]
      exact .byteForwarded hphase

/-- What `hostAct` does is one of the outcomes. -/
theorem acted_hostAct (s : State) : Acted s (hostAct s) := by
  rw [hostAct]
  cases hphase : s.phase
  case scripted => exact acted_hostScripted hphase
  case start => exact .started hphase
  case lookUpSpeed => exact acted_hostLookUpSpeed hphase
  case openTransport => exact acted_hostOpen hphase
  case injectTop => exact acted_hostInjectTop hphase
  case injectSleep => exact .woken hphase
  case injectBuild => exact acted_hostInjectBuild hphase
  case dumpTop => exact acted_hostDumpTop hphase
  case receiveTop => exact acted_hostReceiveTop hphase
  case pollWait => exact .polled hphase
  case ended => exact .finished hphase
  all_goals exact .waits (by rw [hphase]; rfl)

/-! ## One step -/

/-- What a step that goes on can be: the block answers, or the host takes a response, or the host acts. -/
theorem step_moves {s t : State} (h : step s = .next t) :
    (∃ q r b, s.port = .request q ∧ serve q s = .next t ∧ t = { s with asmBuf := b, port := .response r }) ∨
      (∃ r, s.port = .response r ∧ Taken s r t) ∨ (s.port = .idle ∧ Acted s t) := by
  obtain ⟨_, ⟨q, hp, _, served⟩ | ⟨r, hp, taken⟩ | ⟨hp, rfl⟩⟩ := step_cases h
  · obtain ⟨r, b, frame⟩ := serve_frame served
    exact .inl ⟨q, r, b, hp, served, frame⟩
  · exact .inr (.inl ⟨r, hp, taken_of_hostTake taken⟩)
  · exact .inr (.inr ⟨hp, acted_hostAct s⟩)

end Sys2Proof.Machine
end

section
/-! SUPPORT. The host invariant: every step keeps it, and where it holds a run neither faults nor stands still (R211,
R214 to R222). -/

namespace Sys2Proof.Machine

/-! ## Every step keeps the host invariant -/

/-- The scripted host may have anything on the port (R211). -/
theorem HostInv.of_scripted {t : State} (hphase : t.phase = .scripted) : HostInv t := by
  rw [HostInv, hphase]
  exact ⟨nofun, fun _ => .inl rfl, nofun, nofun⟩

/-- A host whose run is over needs an idle port only. -/
theorem HostInv.of_ended {t : State} {e : RunEnd} (hp : t.port = .idle) (hphase : t.phase = .ended e) : HostInv t := by
  rw [HostInv, hphase]
  exact ⟨nofun, fun _ => .inr hp, nofun, nofun⟩

/-- Writing a frame keeps the agreement: the loop entered on success waits for nothing, and injects only where the
payload has been validated (R214, R219). -/
theorem HostInv.writeFrame {s : State} {p : Phase} (f : List Byte) (inv : HostInv s)
    (hr : beforeReset s.phase = false) (hp : waiting p = false) (hj : injecting p = true → injecting s.phase = true) :
    HostInv (writeFrame f p s) := by
  obtain ⟨_, _, payload, reset⟩ := inv
  obtain ⟨w, e, written⟩ := writeFrame_spec f p s
  rw [written]
  cases hw : wroteWhole f w with
  | true => exact .of_idle rfl hp (fun h => payload (hj h)) (fun _ => reset hr)
  | false => exact .of_ended rfl rfl

/-- Taking a response keeps the agreement: the port is freed, or holds the next request with the phase that waits for
it (R211). -/
theorem HostInv.taken {r : Response} {s t : State} (inv : HostInv s) (h : Taken s r t) : HostInv t := by
  have ⟨_, _, _, reset⟩ := inv
  cases h with
  | recorded hphase => exact .of_scripted hphase
  | identifierRefused hphase => exact .of_ended rfl rfl
  | identifierRead hphase =>
    exact .of_call rfl (decode_encode _) rfl rfl nofun (reset (by rw [hphase]; rfl))
  | payloadRefused hphase => exact .of_ended rfl rfl
  | payloadRead hphase hlow hhigh =>
    exact .of_idle rfl rfl (fun _ => ⟨hlow, hhigh⟩) (fun _ => reset (by rw [hphase]; rfl))
  | @configured f m hphase =>
    cases m <;> exact inv.writeFrame f (by rw [hphase]; rfl) rfl (by rw [hphase]; exact id)
  | @injected f hphase => exact inv.writeFrame f (by rw [hphase]; rfl) rfl (by rw [hphase]; exact id)
  | cancelled hphase => exact .of_ended rfl rfl
  | empty hphase | pending hphase | overflow hphase | rendered hphase =>
    exact .of_idle rfl rfl nofun (fun _ => reset (by rw [hphase]; rfl))
  | received hphase => exact .of_call rfl (decode_encode _) rfl rfl nofun (reset (by rw [hphase]; rfl))

/-- Acting keeps the agreement: the host stays off the port, or issues the request its next phase waits on (R211). -/
theorem HostInv.acted {s t : State} (inv : HostInv s) (hp : s.port = .idle) (h : Acted s t) : HostInv t := by
  have ⟨_, _, payload, reset⟩ := inv
  cases h with
  | waits hphase | finished hphase | scriptDone hphase => exact inv
  | scriptedReset hphase | scriptedRequest hphase => exact .of_scripted hphase
  | started hphase => exact .of_idle hp rfl nofun (fun _ => rfl)
  | speedUnmapped hphase | openFailed hphase | stopped hphase | limitReached hphase => exact .of_ended hp rfl
  | identifierAsked hphase => exact .of_call rfl (decode_encode _) rfl rfl nofun (reset (by rw [hphase]; rfl))
  | validationSkipped hphase hmode =>
    refine .of_idle hp rfl (fun h => ?_) (fun _ => reset (by rw [hphase]; rfl))
    simp [injecting, hmode] at h
  | @configurationAsked a speed ftype mode hphase =>
    refine .of_call rfl (decode_encode _) rfl ⟨_, _, _, rfl⟩ (fun h => payload ?_) (reset (by rw [hphase]; rfl))
    rw [hphase]
    cases hmode : a.mode with
    | inject g => simp [injecting, hmode]
    | dump l => simp [injecting, hmode] at h
  | paced hphase | unpaced hphase | woken hphase =>
    exact .of_idle hp rfl (fun _ => payload (by rw [hphase]; rfl)) (fun _ => reset (by rw [hphase]; rfl))
  | frameAsked hphase hlen =>
    obtain ⟨low, high⟩ := payload (by rw [hphase]; rfl)
    rw [← hlen] at low high
    exact .of_call rfl (decode_encode _) rfl ⟨_, _, _, _, rfl, high⟩ (fun _ => ⟨low, high⟩)
      (reset (by rw [hphase]; rfl))
  | receiving hphase | polled hphase =>
    exact .of_idle hp rfl nofun (fun _ => reset (by rw [hphase]; rfl))
  | cancelAsked hphase | emptyReported hphase =>
    exact .of_call rfl (decode_encode _) rfl rfl nofun (reset (by rw [hphase]; rfl))
  | byteForwarded hphase =>
    exact .of_call rfl (decode_encode _) rfl ⟨_, rfl⟩ nofun (reset (by rw [hphase]; rfl))

/-- Serving a request keeps the agreement: a waiting host meets a response it expects (R211). -/
theorem HostInv.served {s t : State} {q : Request} (inv : HostInv s) (hp : s.port = .request q)
    (h : serve q s = .next t) : HostInv t := by
  obtain ⟨waits, idle, payload, reset⟩ := inv
  obtain ⟨r, b, rfl⟩ := serve_frame h
  cases hw : waiting s.phase with
  | false =>
    obtain scripted | isIdle := idle hw
    · exact .of_scripted scripted
    · simp [hp] at isIdle
  | true =>
    obtain ⟨q', i, hq', decoded, asked⟩ | ⟨_, _, hr, _⟩ := waits hw
    · rw [hp, Port.request.injEq] at hq'
      subst hq'
      obtain ⟨r', b', executed, expected⟩ := exec_expected s s.phase i asked
      obtain ⟨wasReset, _⟩ := serve_cases h
      rw [serve, if_pos wasReset, decoded] at h
      change exec i s = _ at h
      rw [executed] at h
      cases h
      exact ⟨fun _ => .inr ⟨r, i, rfl, asked, expected⟩, fun h => absurd (hw.symm.trans h) nofun, payload, reset⟩
    · simp [hp] at hr

/-- Settles O43: block and host each keep the agreement with their move. -/
theorem stepKeepsHostInvariant : Obligations.StepKeepsHostInvariant := by
  intro s t inv hstep
  obtain ⟨q, _, _, hp, served, _⟩ | ⟨r, _, taken⟩ | ⟨hp, acted⟩ := step_moves hstep
  · exact inv.served hp served
  · exact inv.taken taken
  · exact inv.acted hp acted

/-! ## A run never stops -/

/-- HEXPL's bytes are taken whatever their number: none, or more than 8, ends the run (R216). -/
theorem takePayload_of_bytes (a : RunInputs) (speed : Byte) (out : List Byte) (trunc : Bool) (s : State) :
    takePayload a speed ⟨.ok, .bytes out trunc⟩ s = some
      (if out.length = 0 ∨ 8 < out.length then
        { s with
          port := .idle
          phase := .ended .invalidPayload
          seen := s.seen ++ (if trunc then [Observation.truncated] else []) }
      else
        { s with
          port := .idle
          phase := .openTransport a speed
          seen := s.seen ++ (if trunc then [Observation.truncated] else [])
          inj := { s.inj with payload := out } }) := by
  simp only [takePayload, if_true]
  split <;> rfl

/-- The host has a case for every response it can meet where it waits (R214 to R222; log entry 12). -/
theorem hostTake_of_expected {s : State} {i : Instr} {r : Response} (asked : Asked s.phase i) (h : Expected i r) :
    ∃ t, hostTake r s = some t := by
  obtain ⟨answer, notTooLong, refusable⟩ := h
  rw [hostTake]
  cases hphase : s.phase <;> rw [hphase] at asked
  case awaitIdentifier a g speed =>
    obtain rfl := asked
    cases answer with
    | hexid | hexidInvalid | illegal => exact ⟨_, rfl⟩
  case awaitPayload a g speed =>
    obtain rfl := asked
    cases answer with
    | hexpl _ _ out trunc => exact ⟨_, takePayload_of_bytes a speed out trunc s⟩
    | illegal => exact ⟨_, rfl⟩
  case awaitConfiguration m =>
    obtain ⟨_, _, _, rfl⟩ := asked
    cases answer with
    | cfgbld => exact ⟨_, rfl⟩
    | illegal => simp [Instr.op] at refusable
  case awaitDataFrame =>
    obtain ⟨_, _, _, _, rfl, _⟩ := asked
    cases answer with
    | datbld => exact ⟨_, rfl⟩
    | datbldTooLong => exact absurd rfl notTooLong
    | illegal => simp [Instr.op] at refusable
  case awaitCancelled =>
    obtain rfl := asked
    cases answer with
    | asmCancel => exact ⟨_, rfl⟩
    | illegal => simp [Instr.op] at refusable
  case awaitEmpty =>
    obtain rfl := asked
    cases answer with
    | asmEmpty => exact ⟨_, rfl⟩
    | illegal => simp [Instr.op] at refusable
  case awaitByte =>
    obtain ⟨_, rfl⟩ := asked
    cases answer with
    | asmBytePending | asmByteFrame | asmByteOverflow => exact ⟨_, rfl⟩
    | illegal => simp [Instr.op] at refusable
  case awaitDecoded raw tau =>
    obtain rfl := asked
    cases answer with
    | datdec | datdecOther | illegal => exact ⟨_, rfl⟩
  all_goals exact asked.elim

/-- Taking a response takes it off the port (R211). -/
theorem Taken.port_ne {r : Response} {s t : State} (h : Taken s r t) (r' : Response) : t.port ≠ .response r' := by
  cases h with
  | @configured f m | @injected f =>
    obtain ⟨w, e, written⟩ := writeFrame_spec f _ s
    rw [written]
    nofun
  | _ => nofun

/-- A host of a run that waits for nothing and has not ended leaves its place when it acts. -/
theorem Acted.phase_ne {s t : State} (h : Acted s t) (hwait : waiting s.phase = false)
    (hscript : s.phase ≠ .scripted) (hend : ∀ e, s.phase ≠ .ended e) : t.phase ≠ s.phase := by
  cases h with
  | waits hphase => exact absurd (hwait.symm.trans hphase) nofun
  | finished hphase => exact absurd hphase (hend _)
  | scriptDone hphase | scriptedReset hphase | scriptedRequest hphase => exact absurd hphase hscript
  | stopped hphase => obtain hphase | hphase := hphase <;> rw [hphase] <;> nofun
  | started hphase | speedUnmapped hphase | identifierAsked hphase | validationSkipped hphase | openFailed hphase
  | configurationAsked hphase | paced hphase | unpaced hphase | woken hphase | frameAsked hphase
  | limitReached hphase | receiving hphase | cancelAsked hphase | emptyReported hphase | byteForwarded hphase
  | polled hphase =>
    rw [hphase]
    nofun

/-- A host that waits has passed the block's reset (R243). -/
theorem beforeReset_of_waiting {p : Phase} (h : waiting p = true) : beforeReset p = false := by
  cases p <;> simp_all [waiting, beforeReset]

/-- Where host and port agree, what stands on the port tells which of the three moves the step is; each exists. -/
theorem HostInv.step_next {s : State} (inv : HostInv s) (hm : s.params.maxLen ≠ 0) (hscript : s.phase ≠ .scripted) :
    ∃ t, step s = .next t := by
  obtain ⟨waits, idle, _, reset⟩ := inv
  cases hw : waiting s.phase with
  | false => exact ⟨_, step_of_idle hm ((idle hw).resolve_left hscript)⟩
  | true =>
    have served := beforeReset_of_waiting hw
    obtain ⟨q, i, hp, decoded, _⟩ | ⟨r, i, hp, asked, expected⟩ := waits hw
    · obtain ⟨r, b, executed, _⟩ := exec_answers i s
      exact ⟨_, (step_of_decode hm (reset served) hp decoded).trans executed⟩
    · obtain ⟨t, taken⟩ := hostTake_of_expected asked expected
      exact ⟨t, step_of_response hm hp taken⟩

/-- Only a response that the host has no case for makes a step fault: the block never does (R200). -/
theorem response_of_step_fault {s : State} {e : Fault} (h : step s = .fault e) :
    ∃ r, s.port = .response r ∧ hostTake r s = none := by
  rw [step] at h
  split at h
  · cases h
  · split at h
    · next q _ =>
      cases hw : s.wasReset with
      | false =>
        rw [serve_of_wasReset_false q hw] at h
        cases h
      | true =>
        obtain ⟨f, hf⟩ := serve_of_block q
        rw [hf s hw] at h
        cases h
    · next r hp =>
      split at h
      · cases h
      · next noCase => exact ⟨r, hp, noCase⟩
    · cases h

/-- A step of a run that has not ended changes the port, or the place of the host. -/
theorem step_ne_self {s t : State} (inv : HostInv s) (hscript : s.phase ≠ .scripted) (hend : ∀ e, s.phase ≠ .ended e)
    (h : step s = .next t) : t ≠ s := by
  rintro rfl
  obtain ⟨q, r, b, hp, _, frame⟩ | ⟨r, hp, taken⟩ | ⟨hp, acted⟩ := step_moves h
  · have := congrArg State.port frame
    rw [hp] at this
    cases this
  · exact taken.port_ne r hp
  · obtain ⟨waits, _⟩ := inv
    have hwait : waiting t.phase = false := by
      by_contra hw
      obtain ⟨q, i, hq, _⟩ | ⟨r, i, hr, _⟩ := waits (by simpa using hw)
      · simp [hp] at hq
      · simp [hp] at hr
    exact acted.phase_ne hwait hscript hend rfl

/-- Settles O44: the scripted host never faults; a run has a next step, which is not the same state again. -/
theorem runNeverStops : Obligations.RunNeverStops := by
  intro s inv hm
  refine ⟨fun e => ?_, fun hscript hend => ?_⟩
  · by_cases hscript : s.phase = .scripted
    · intro fault
      obtain ⟨r, _, noCase⟩ := response_of_step_fault fault
      rw [hostTake, hscript] at noCase
      cases noCase
    · obtain ⟨t, next⟩ := inv.step_next hm hscript
      rw [next]
      nofun
  · obtain ⟨t, next⟩ := inv.step_next hm hscript
    exact ⟨t, next, step_ne_self inv hscript hend next⟩

end Sys2Proof.Machine
end

section
/-! SUPPORT. What else every step keeps: the bound of the Dump Loop's count (R224), the set cancellation flag (R213), the
record of the transport's writes (R42); and the invariants in the reset state (R240, R241). -/

namespace Sys2Proof.Machine

/-! ## The limit of the Dump Loop -/

/-- The bound carries over where the variables stay, and no reception begins. -/
theorem DumpInv.of_dump_eq {s t : State} (inv : DumpInv s) (hdump : t.dump = s.dump)
    (hreceiving : receiving t.phase = true → receiving s.phase = true) : DumpInv t := by
  intro l hl
  rw [hdump] at hl ⊢
  obtain ⟨bound, strict⟩ := inv l hl
  exact ⟨bound, fun h => strict (hreceiving h)⟩

/-- A limit that is not reached is above the count (R224). -/
theorem count_lt_of_limitReached {d : Dump} {l : Nat} (h : limitReached d = false) (hl : d.limit = some l) :
    d.count < l := by
  simpa [limitReached, hl] using h

/-- Writing a frame leads out of reception, or not into it (R214, R219). -/
theorem DumpInv.writeFrame {s : State} {p : Phase} (f : List Byte) (inv : DumpInv s) (hp : receiving p = false) :
    DumpInv (writeFrame f p s) := by
  obtain ⟨w, e, written⟩ := writeFrame_spec f p s
  rw [written]
  refine inv.of_dump_eq rfl fun h => ?_
  cases hw : wroteWhole f w with
  | true => simp [hw, hp] at h
  | false => simp [hw, receiving] at h

/-- Taking a response keeps the bound: a frame is counted where the count was below the limit (R221, R224). -/
theorem DumpInv.taken {r : Response} {s t : State} (inv : DumpInv s) (h : Taken s r t) : DumpInv t := by
  cases h with
  | recorded hphase => exact inv.of_dump_eq rfl id
  | identifierRefused hphase | identifierRead hphase | payloadRefused hphase | payloadRead hphase | cancelled hphase
  | overflow hphase => exact inv.of_dump_eq rfl nofun
  | empty hphase | pending hphase | received hphase =>
    exact inv.of_dump_eq rfl fun _ => by rw [hphase]; rfl
  | @configured f m hphase => cases m <;> exact inv.writeFrame f rfl
  | @injected f hphase => exact inv.writeFrame f rfl
  | rendered hphase =>
    intro l hl
    obtain ⟨_, strict⟩ := inv l hl
    exact ⟨strict (by rw [hphase]; rfl), nofun⟩

/-- Acting keeps the bound: a start zeroes the count, and a reception begins only below the limit (R221, R224). -/
theorem DumpInv.acted {s t : State} (inv : DumpInv s) (h : Acted s t) : DumpInv t := by
  cases h with
  | waits hphase | finished hphase | scriptDone hphase => exact inv
  | started hphase => exact fun l _ => ⟨Nat.zero_le l, nofun⟩
  | receiving hphase hlimit =>
    intro l hl
    have strict := count_lt_of_limitReached hlimit hl
    exact ⟨strict.le, fun _ => strict⟩
  | cancelAsked hphase | emptyReported hphase | byteForwarded hphase | polled hphase =>
    exact inv.of_dump_eq rfl fun _ => by rw [hphase]; rfl
  | scriptedReset hphase | scriptedRequest hphase => exact inv.of_dump_eq rfl id
  | speedUnmapped hphase | identifierAsked hphase | validationSkipped hphase | openFailed hphase
  | configurationAsked hphase | stopped hphase | paced hphase | unpaced hphase | woken hphase | frameAsked hphase
  | limitReached hphase => exact inv.of_dump_eq rfl nofun

/-- Settles O45: serving a request touches neither the count nor the place of the host. -/
theorem stepKeepsDumpLimit : Obligations.StepKeepsDumpLimit := by
  intro s t inv hstep
  obtain ⟨_, r, b, _, _, rfl⟩ | ⟨r, _, taken⟩ | ⟨_, acted⟩ := step_moves hstep
  · exact inv.of_dump_eq rfl id
  · exact inv.taken taken
  · exact inv.acted acted

/-! ## The cancellation flag -/

/-- Taking a response leaves the flag as it is (R213). -/
theorem Taken.cancel_eq {r : Response} {s t : State} (h : Taken s r t) : t.cancel = s.cancel := by
  cases h with
  | @configured f | @injected f =>
    obtain ⟨w, e, written⟩ := writeFrame_spec f _ s
    rw [written]
  | _ => rfl

/-- Outside START, acting does not clear the flag: a check can only set it (R213). -/
theorem Acted.cancel_of_set {s t : State} (h : Acted s t) (hset : s.cancel = true)
    (hstart : ∀ a, s.phase ≠ .start a) : t.cancel = true := by
  have checked : s.checkCancel.cancel = true := by
    obtain ⟨c, e, check⟩ := s.checkCancel_spec
    rw [check, hset, Bool.true_or]
  cases h with
  | started hphase => exact absurd hphase (hstart _)
  | stopped | paced | unpaced | limitReached | receiving | cancelAsked | emptyReported | byteForwarded =>
    exact checked
  | _ => exact hset

/-- Settles O46: the block does not see the flag, and the host clears it only where a run starts. -/
theorem cancellationIsSticky : Obligations.CancellationIsSticky := by
  intro s t hset hstart hstep
  obtain ⟨_, r, b, _, _, rfl⟩ | ⟨r, _, taken⟩ | ⟨_, acted⟩ := step_moves hstep
  · exact hset
  · exact taken.cancel_eq.trans hset
  · exact acted.cancel_of_set hset hstart

/-! ## The writes -/

/-- Taking a response records no write, or one, of the frame the response carries (R42, R214, R219). -/
theorem Taken.writes {r : Response} {s t : State} (h : Taken s r t) : t.link.writes = s.link.writes ∨
    ∃ f w, r = ⟨.ok, .frame f⟩ ∧ t.link.writes = s.link.writes ++ [(f, w)] ∧
      (s.phase = .awaitDataFrame ∨ ∃ m, s.phase = .awaitConfiguration m) := by
  cases h with
  | @configured f m hphase =>
    obtain ⟨w, e, written⟩ := writeFrame_spec f (loopTop m) s
    rw [written]
    exact .inr ⟨f, w, rfl, rfl, .inr ⟨m, hphase⟩⟩
  | @injected f hphase =>
    obtain ⟨w, e, written⟩ := writeFrame_spec f .injectTop s
    rw [written]
    exact .inr ⟨f, w, rfl, rfl, .inl hphase⟩
  | _ => exact .inl rfl

/-- Settles O52: of the three moves only taking a response writes to the transport. -/
theorem onlyBuiltFramesAreWritten : Obligations.OnlyBuiltFramesAreWritten := by
  intro s t hstep changed
  obtain ⟨_, ⟨_, _, _, served⟩ | ⟨r, hp, taken⟩ | ⟨_, rfl⟩⟩ := step_cases hstep
  · obtain ⟨r, b, rfl⟩ := serve_frame served
    exact absurd rfl changed
  · obtain unchanged | ⟨f, w, rfl, appended, place⟩ := (taken_of_hostTake taken).writes
    · exact absurd unchanged changed
    · exact ⟨f, w, hp, appended, place⟩
  · obtain ⟨_, unchanged, _⟩ := hostAct_frame s
    exact absurd unchanged changed

/-! ## The reset state -/

/-- Settles O33: the reset state is that of a scripted host with an empty buffer and no limit. -/
theorem resetState : Obligations.ResetState :=
  ⟨rfl, rfl, rfl, rfl, .of_empty (by decide) rfl, .of_scripted rfl, nofun⟩

end Sys2Proof.Machine
end

section
/-! SUPPORT. Single steps of the host: the scripted host's request, start-up, the tops of the loops, and the answers of
the reception cycle (R211 to R224). -/

namespace Sys2Proof.Machine

/-! ## The scripted host -/

/-- Settles O47: the request goes on the port, the block answers it, and the host records the answer. -/
theorem scriptedHostTakesOneResponse : Obligations.ScriptedHostTakesOneResponse := by
  intro s q rest hphase hp hw hm hscript
  have act : hostAct s = { s with script := rest, port := .request q } := by
    rw [show hostAct s = hostScripted s by rw [hostAct, hphase], hostScripted, hscript]
    rfl
  have issued : step s = .next { s with script := rest, port := .request q } :=
    (step_of_idle hm hp).trans (congrArg _ act)
  obtain ⟨r, b, served⟩ := servedRequestGetsOneResponse { s with script := rest, port := .request q } q ⟨hm, hw, rfl⟩
  refine ⟨r, b, ?_, served⟩
  have recorded : step { s with script := rest, asmBuf := b, port := .response r } =
      .next { s with script := rest, asmBuf := b, port := .idle, seen := s.seen ++ [.response r] } :=
    step_of_response hm rfl (by rw [hostTake, hphase]; rfl)
  rw [runSteps_next 2 issued, runSteps_next 1 served, runSteps_next 0 recorded, runSteps_zero, hp]

/-! ## Start-up -/

theorem step_of_start {s : State} {a : RunInputs} (hm : s.params.maxLen ≠ 0) (hp : s.port = .idle)
    (hphase : s.phase = .start a) : step s = .next (hostStart a s) := by
  rw [step_of_idle hm hp, hostAct, hphase]

theorem step_of_lookUpSpeed {s : State} {a : RunInputs} (hm : s.params.maxLen ≠ 0) (hp : s.port = .idle)
    (hphase : s.phase = .lookUpSpeed a) : step s = .next (hostLookUpSpeed a s) := by
  rw [step_of_idle hm hp, hostAct, hphase]

/-- Settles O48: the start is one move; an unmapped bitrate and a dump run go on without a request. -/
theorem startResetsAndChecksSpeed : Obligations.StartResetsAndChecksSpeed := by
  refine ⟨fun s a hm hp hphase => ?_, fun s a hm hp hphase unmapped => ?_,
    fun s a l speed hm hp hphase hmode mapped => ?_⟩
  · exact ⟨_, step_of_start hm hp hphase, rfl, rfl, rfl, rfl, rfl, rfl, rfl, hp⟩
  · rw [step_of_lookUpSpeed hm hp hphase]
    simp only [hostLookUpSpeed, speedCode, unmapped]
    rfl
  · rw [step_of_lookUpSpeed hm hp hphase]
    simp only [hostLookUpSpeed, speedCode, mapped, hmode]
    rfl

/-- Settles O49: HEXID and then HEXPL are asked of the run's own strings, and each answer has its case. -/
theorem injectionInputValidation : Obligations.InjectionInputValidation := by
  refine fun s a g speed hm => ⟨fun hphase hp hmode mapped => ?_, fun hphase hp => ?_, fun lsb msb hphase hp => ?_,
    fun hphase hp => ?_, fun out trunc hphase hp => ?_⟩
  · rw [step_of_lookUpSpeed hm hp hphase]
    simp only [hostLookUpSpeed, speedCode, mapped, hmode]
    rfl
  · exact step_of_response hm hp (by rw [hostTake, hphase]; rfl)
  · exact step_of_response hm hp (by rw [hostTake, hphase]; rfl)
  · obtain hphase | hphase := hphase <;> exact step_of_response hm hp (by rw [hostTake, hphase]; rfl)
  · have taken : hostTake ⟨.ok, .bytes out trunc⟩ s = takePayload a speed ⟨.ok, .bytes out trunc⟩ s := by
      rw [hostTake, hphase]
    rw [takePayload_of_bytes] at taken
    refine ⟨_, step_of_response hm hp taken, ?_⟩
    by_cases bad : out.length = 0 ∨ 8 < out.length
    · rw [if_pos bad]
      exact ⟨rfl, rfl, rfl, fun _ => rfl, fun low high => by omega⟩
    · rw [if_neg bad]
      refine ⟨rfl, rfl, rfl, fun refused => absurd ?_ bad, fun _ _ => ⟨rfl, rfl⟩⟩
      rwa [List.length_eq_zero_iff]

/-- Settles O50: the scheduled answer to the open decides between the end of the run and CFGBLD. -/
theorem openThenConfigure : Obligations.OpenThenConfigure := by
  intro s a speed ok more hm hp hphase hopens
  have act : hostAct s = hostOpen a speed s := by rw [hostAct, hphase]
  refine ⟨_, (step_of_idle hm hp).trans (congrArg _ act), ?_⟩
  rw [hostOpen, s.openTransport_scheduled a.path a.baud ok more hopens]
  cases ok with
  | true => exact ⟨rfl, nofun, fun _ => ⟨rfl, rfl, rfl⟩⟩
  | false => exact ⟨rfl, fun _ => ⟨rfl, hp⟩, nofun⟩

/-! ## Writing a frame -/

/-- Where CFGBLD or DATBLD is awaited, a frame returned with OK is written, and the loop entered on success is that of
the run (R214, R219). -/
theorem hostTake_frame_writes {s : State} (f : List Byte)
    (hphase : s.phase = .awaitDataFrame ∨ ∃ m, s.phase = .awaitConfiguration m) :
    ∃ p, hostTake ⟨.ok, .frame f⟩ s = some (writeFrame f p s) ∧ (s.phase = .awaitDataFrame → p = .injectTop) ∧
      ∀ m, s.phase = .awaitConfiguration m → p = loopTop m := by
  obtain hphase | ⟨m, hphase⟩ := hphase <;> rw [hostTake, hphase]
  · exact ⟨.injectTop, rfl, fun _ => rfl, nofun⟩
  · refine ⟨loopTop m, rfl, nofun, fun m' h => ?_⟩
    rw [Phase.awaitConfiguration.injEq] at h
    rw [h]

/-- An error or a short count is not the whole frame (R220). -/
theorem wroteWhole_of_short {f : List Byte} {w : WriteResult} (h : w = .error ∨ ∃ n, w = .count n ∧ n < f.length) :
    wroteWhole f w = false := by
  obtain rfl | ⟨n, rfl, short⟩ := h
  · rfl
  · exact decide_eq_false (by omega)

/-- A count of at least the frame's length is the whole frame (R220; log entry 16). -/
theorem wroteWhole_of_full {f : List Byte} {w : WriteResult} (h : ∃ n, w = .count n ∧ f.length ≤ n) :
    wroteWhole f w = true := by
  obtain ⟨n, rfl, full⟩ := h
  exact decide_eq_true full

/-- Settles O51: the write's scheduled answer is whole or short, and the place follows from it. -/
theorem shortWriteEndsTheRun : Obligations.ShortWriteEndsTheRun := by
  intro s f w more hm hp hwrites hphase
  obtain ⟨p, taken, data, configuration⟩ := hostTake_frame_writes f hphase
  refine ⟨_, step_of_response hm hp taken, ?_⟩
  rw [writeFrame_scheduled f p s w more hwrites]
  refine ⟨rfl, rfl, fun short => if_neg (by simp [wroteWhole_of_short short]), fun full => ?_⟩
  simp only [wroteWhole_of_full full, if_true]
  exact ⟨data, fun g h => configuration _ h, fun l h => configuration _ h⟩

/-! ## The tops of the loops -/

/-- What a check sees with a scheduled signal (R213). -/
theorem checkCancel_flag {s : State} {sig : Bool} {more : List Bool} (h : s.env.signals = sig :: more) :
    s.checkCancel.cancel = (s.cancel || sig) := by
  rw [s.checkCancel_scheduled sig more h]

theorem step_of_injectTop {s : State} (hm : s.params.maxLen ≠ 0) (hp : s.port = .idle)
    (hphase : s.phase = .injectTop) : step s = .next (hostInjectTop s) := by
  rw [step_of_idle hm hp, hostAct, hphase]

theorem step_of_dumpTop {s : State} (hm : s.params.maxLen ≠ 0) (hp : s.port = .idle)
    (hphase : s.phase = .dumpTop) : step s = .next (hostDumpTop s) := by
  rw [step_of_idle hm hp, hostAct, hphase]

/-- The limit is reached exactly where there is one and the count is not below it (R224). -/
theorem limitReached_iff (d : Dump) : limitReached d = true ↔ ∃ l, d.limit = some l ∧ l ≤ d.count := by
  cases h : d.limit <;> simp [limitReached, h]

/-- Settles O53: the check of the flag comes first, and the interval decides between the sleep and the build. -/
theorem injectionChecksFlagFirst : Obligations.InjectionChecksFlagFirst := by
  refine ⟨fun s sig more hm hp hphase hsig => ⟨_, step_of_injectTop hm hp hphase, ?_⟩, fun s hm hp hphase => ?_⟩
  · have flag := checkCancel_flag hsig
    cases hc : s.cancel || sig with
    | true =>
      have notClear (h : s.cancel = false) : sig ≠ false := by simpa [h] using hc
      rw [hostInjectTop_of_cancel (flag.trans hc)]
      exact ⟨flag.trans hc, rfl, rfl, hp, fun _ => rfl, fun h h' => absurd h' (notClear h),
        fun h h' => absurd h' (notClear h)⟩
    | false =>
      have notSet : ¬ (s.cancel = true ∨ sig = true) := by simpa using hc
      by_cases interval : s.inj.intervalMs = 0
      · rw [hostInjectTop_of_unpaced (flag.trans hc) interval]
        exact ⟨flag.trans hc, rfl, rfl, hp, fun h => absurd h notSet, fun _ _ _ => rfl,
          fun _ _ h => absurd interval h⟩
      · rw [hostInjectTop_of_paced (flag.trans hc) interval]
        exact ⟨flag.trans hc, rfl, rfl, hp, fun h => absurd h notSet, fun _ _ h => absurd h interval,
          fun _ _ _ => rfl⟩
  · have act : hostAct s = s.goTo .injectBuild := by rw [hostAct, hphase]
    exact (step_of_idle hm hp).trans (congrArg _ act)

/-- Settles O59: the check of the flag comes first, then the limit. -/
theorem dumpChecksFlagThenLimit : Obligations.DumpChecksFlagThenLimit := by
  refine fun s sig more hm hp hphase hsig => ⟨_, step_of_dumpTop hm hp hphase, ?_⟩
  have flag := checkCancel_flag hsig
  cases hc : s.cancel || sig with
  | true =>
    have notClear (h : s.cancel = false) : sig ≠ false := by simpa [h] using hc
    rw [hostDumpTop_of_cancel (flag.trans hc)]
    exact ⟨hp, rfl, fun _ => rfl, fun h h' => absurd h' (notClear h), fun h h' => absurd h' (notClear h)⟩
  | false =>
    have notSet : ¬ (s.cancel = true ∨ sig = true) := by simpa using hc
    by_cases limit : ∃ l, s.dump.limit = some l ∧ l ≤ s.dump.count
    · rw [hostDumpTop_of_limit (flag.trans hc) ((limitReached_iff s.dump).2 limit)]
      obtain ⟨l, hl, reached⟩ := limit
      exact ⟨hp, rfl, fun h => absurd h notSet, fun _ _ _ _ _ => rfl,
        fun _ _ below => absurd (below l hl) (by omega)⟩
    · rw [hostDumpTop_of_room (flag.trans hc) (Bool.eq_false_of_not_eq_true ((limitReached_iff s.dump).not.2 limit))]
      exact ⟨hp, rfl, fun h => absurd h notSet, fun _ _ l hl reached => absurd ⟨l, hl, reached⟩ limit,
        fun _ _ _ => rfl⟩

/-! ## The reception cycle -/

/-- Where ASM_BYTE is awaited, the step is what `takeByte` does (R221, R222). -/
theorem step_of_awaitByte {s t : State} {r : Response} (hm : s.params.maxLen ≠ 0) (hphase : s.phase = .awaitByte)
    (hp : s.port = .response r) (h : takeByte r s = some t) : step s = .next t :=
  step_of_response hm hp (by rw [hostTake, hphase]; exact h)

/-- An overflow is recorded with the scheduled timestamp, and the Dump Loop goes on (R221, R224). -/
theorem takeByte_of_overflow {s : State} {tau : Nat} {more : List Nat} (h : s.env.stamps = tau :: more) :
    takeByte ⟨.frameOverflow, .nothing⟩ s = some { s with
      port := .idle
      phase := .dumpTop
      seen := s.seen ++ [.receiveError tau]
      env := { s.env with stamps := more } } := by
  change some ((s.take.stamp.2.observe (.receiveError s.take.stamp.1)).goTo .dumpTop) = _
  rw [s.take.stamp_scheduled tau more h]
  rfl

/-- A frame is stamped with the scheduled timestamp and given to DATDEC (R221). -/
theorem takeByte_of_frame {s : State} {f : List Byte} {tau : Nat} {more : List Nat} (h : s.env.stamps = tau :: more) :
    takeByte ⟨.frame, .frame f⟩ s = some { s with
      port := .request (encode (.datdec f))
      phase := .awaitDecoded f tau
      env := { s.env with stamps := more } } := by
  change some (s.take.stamp.2.call (.datdec f) (.awaitDecoded f s.take.stamp.1)) = _
  rw [s.take.stamp_scheduled tau more h]
  rfl

/-- A cancelled cycle draws the scheduled timestamp and ends the run (R221, R222). -/
theorem takeCancelled_of_cancelled {s : State} {tau : Nat} {more : List Nat} (h : s.env.stamps = tau :: more) :
    takeCancelled ⟨.cancelled, .nothing⟩ s = some { s with
      port := .idle
      phase := .ended .stopped
      env := { s.env with stamps := more } } := by
  change some (s.take.stamp.2.goTo (.ended .stopped)) = _
  rw [s.take.stamp_scheduled tau more h]
  rfl

/-- Settles O57: each answer has its case, and the timestamp is the scheduled one. -/
theorem receptionOutcomes : Obligations.ReceptionOutcomes := by
  refine fun s hm => ⟨fun hphase hp => step_of_awaitByte hm hphase hp rfl,
    fun tau more hstamps hphase hp => step_of_awaitByte hm hphase hp (takeByte_of_overflow hstamps),
    fun tau more f hstamps hphase hp => step_of_awaitByte hm hphase hp (takeByte_of_frame hstamps),
    fun tau more hstamps hphase hp => ?_, fun hphase hp => ?_, fun hphase hp => ?_⟩
  · refine step_of_response hm hp ?_
    rw [← takeCancelled_of_cancelled hstamps, hostTake, hphase]
  · exact step_of_response hm hp (by rw [hostTake, hphase]; rfl)
  · have act : hostAct s = s.goTo .receiveTop := by rw [hostAct, hphase]
    exact (step_of_idle hm hp).trans (congrArg _ act)

end Sys2Proof.Machine
end

section
/-! SUPPORT. Laws of the units on an unbounded instance: which operands are refused (R8), the checksum's laws (R103), the
characters HEXPL passes over (R115), and frames built and decoded again (R165, R168 to R171). -/

namespace Sys2Proof.Machine

/-! ## The operand bound -/

/-- An instance does not take an operand longer than its `SEQ_MAX` (R8). -/
theorem not_takes_of_longer {s : State} {n : Nat} {q : List Byte} (hbound : s.params.seqMax = some n)
    (hlen : n < q.length) : ¬ s.takes q = true := by
  simp [State.takes, hbound, hlen]

/-- An instance without a `SEQ_MAX` takes every operand (R8). -/
theorem withinBound_of_unbounded {s : State} (h : s.params.seqMax = none) (q : List Byte) :
    withinBound s.params.seqMax q = true := by
  rw [h]
  rfl

/-- An outcome that answers, with another status than ILLEGAL_OP. -/
def AnswersLegally (o : Host.Outcome State Fault Refusal) : Prop :=
  ∃ r t, o = .next t ∧ t.port = .response r ∧ r.status ≠ .illegalOp

theorem AnswersLegally.respond {st : Status} (s : State) (res : Results) (h : st ≠ .illegalOp) :
    AnswersLegally (.next (s.respond st res)) :=
  ⟨_, _, rfl, rfl, h⟩

/-- DATBLD is never refused: its payload is not subject to `SEQ_MAX` (R165). -/
theorem exec_datbld_answersLegally (s : State) (ext : Bool) (m l : Byte) (p : List Byte) :
    AnswersLegally (exec (.datbld ext m l p) s) := by
  by_cases h : 8 < p.length
  · rw [exec_datbld_tooLong s ext m l h]
    exact .respond s _ nofun
  · rw [exec_datbld s ext m l p (by omega)]
    exact .respond s _ nofun

/-- Without a `SEQ_MAX` no instruction is refused (R8). -/
theorem exec_answersLegally {s : State} (h : s.params.seqMax = none) (i : Instr) : AnswersLegally (exec i s) := by
  have bound := withinBound_of_unbounded h
  cases i with
  | cksum q =>
    rw [exec_cksum_of_withinBound s (bound q)]
    exact .respond s _ nofun
  | hexid q =>
    cases hid : identifierOf q with
    | none =>
      rw [exec_hexid_of_none s (bound q) hid]
      exact .respond s _ nofun
    | some lm =>
      rw [exec_hexid_of_some s (bound q) hid]
      exact .respond s _ nofun
  | hexpl m q =>
    rw [exec_hexpl_of_withinBound s m (bound q)]
    exact .respond s _ nofun
  | asmByte x =>
    change AnswersLegally (execAsmByte x s)
    obtain ⟨_, he⟩ | ⟨_, _, he⟩ | ⟨_, _, he⟩ := execAsmByte_cases x s <;> rw [he] <;> exact .respond _ _ nofun
  | asmEmpty => exact .respond s _ nofun
  | asmCancel => exact .respond (s.setBuf []) _ nofun
  | cfgbld a b c => exact .respond s _ nofun
  | datbld e m l p => exact exec_datbld_answersLegally s e m l p
  | datdec q =>
    cases hd : decodeDataFrame q with
    | none =>
      rw [exec_datdec_of_none s (bound q) hd]
      exact .respond s _ nofun
    | some d =>
      rw [exec_datdec_of_some s (bound q) hd]
      exact .respond s _ nofun

/-- Settles O7: the four operations that take a bounded operand refuse a longer one; nothing else is refused. -/
theorem operandBeyondSeqMaxIsIllegal : Obligations.OperandBeyondSeqMaxIsIllegal := by
  refine fun s => ⟨fun i n hbound => ?_, fun i h => exec_answersLegally h i, exec_datbld_answersLegally s⟩
  rintro (⟨q, rfl, hlen⟩ | ⟨q, rfl, hlen⟩ | ⟨m, q, rfl, hlen⟩ | ⟨q, rfl, hlen⟩) <;>
    exact if_neg (not_takes_of_longer hbound hlen)

/-! ## The checksum -/

theorem checksum_append (a b : List Byte) :
    checksum (a ++ b) = BitVec.ofNat 8 (((checksum a).toNat + (checksum b).toNat) % 256) := by
  apply BitVec.eq_of_toNat_eq
  simp [toNat_checksum]

theorem checksum_reverse (a : List Byte) : checksum a.reverse = checksum a := by
  rw [checksum, List.map_reverse, List.sum_reverse, checksum]

theorem checksum_append_zeros (a : List Byte) (n : Nat) : checksum (a ++ List.replicate n 0) = checksum a := by
  rw [checksum, List.map_append, List.map_replicate, List.sum_append, checksum]
  simp

/-- Settles O9: the laws are those of the checksum, which CKSUM answers to every operand. -/
theorem checksumLaws : Obligations.ChecksumLaws := by
  intro s b₁ b₂ n h
  have answer (b : List Byte) : exec (.cksum b) s = .next (s.respond .ok (.sum (checksum b))) :=
    exec_cksum_of_withinBound s (withinBound_of_unbounded h b)
  refine ⟨checksum b₁, checksum b₂, answer b₁, answer b₂, toNat_checksum b₁, ?_, ?_, ?_⟩
  · rw [answer, checksum_append]
    rfl
  · rw [answer, checksum_reverse]
    rfl
  · rw [answer, checksum_append_zeros]
    rfl

/-! ## Hex strings -/

/-- The digits of a string are those of its hex characters (R115). -/
theorem hexDigits_filter (str : List Byte) :
    hexDigits (str.filter fun ch => (hexval ch).isSome) = hexDigits str := by
  rw [hexDigits, List.filterMap_filter, hexDigits]
  congr 1
  funext ch
  cases hexval ch <;> rfl

/-- Settles O13: what HEXPL answers is a function of the string's digits. -/
theorem hexplIgnoresOtherCharacters : Obligations.HexplIgnoresOtherCharacters := by
  intro s maxLen str h
  rw [exec_hexpl_of_withinBound s maxLen (withinBound_of_unbounded h _),
    exec_hexpl_of_withinBound s maxLen (withinBound_of_unbounded h _), payloadBytes, payloadBytes, hexDigits_filter]

/-! ## Data frames decoded -/

/-- The fields of a data frame written out by its parts: payload and display sequence are read off by position, the
extended flag is 0, and the end byte is not looked at (R167, R168, R170). -/
theorem decodeDataFrame_of_parts {r1 r2 r3 e : Byte} {mid : List Byte} (hC : r1.toNat / 16 = 0xC) (hmid : mid ≠ []) :
    decodeDataFrame ([0xAA, r1, r2, r3] ++ mid ++ [e]) = some {
      cls := .data, idLsb := r2, idMsb := r3, id := BitVec.ofNat 16 (r3.toNat * 256 + r2.toNat), ext := false
      dlc := BitVec.ofNat 4 (r1.toNat % 16), payload := mid, disp := mid.reverse ++ [r3, r2] } := by
  have dlc : lowNibble r1 = BitVec.ofNat 4 (r1.toNat % 16) := by
    rw [← toNat_lowNibble, BitVec.ofNat_toNat, BitVec.setWidth_eq]
  have hlen := List.length_pos_of_ne_nil hmid
  rw [decodeDataFrame_of_valid (r1 := r1) (r2 := r2) (r3 := r3) (tail := mid ++ [e]) (by simp) (by simp; omega) hC,
    extFlag_of_highNibble_C r1 hC, dlc]
  simp

/-- Settles O21: DATDEC answers with the fields read off the frame's parts. -/
theorem datdecDisplayAndUncheckedBytes : Obligations.DatdecDisplayAndUncheckedBytes :=
  fun s _ _ _ _ _ h hC hmid =>
    exec_datdec_of_some s (withinBound_of_unbounded h _) (decodeDataFrame_of_parts hC hmid)

/-- Settles O22: the info byte of a Standard frame announces a data frame, and carries the payload's length. -/
theorem dataFrameRoundTrip : Obligations.DataFrameRoundTrip := by
  intro s m l payload h hlow hhigh
  have info : (infoByte false payload.length).toNat = 0xC0 + payload.length := toNat_infoByte false _ hhigh
  have nonempty : payload ≠ [] := List.ne_nil_of_length_pos hlow
  refine ⟨_, _, exec_datbld s false m l payload hhigh, exec_datdec_of_some s (withinBound_of_unbounded h _)
    (decodeDataFrame_of_parts (by omega) nonempty), rfl, rfl, rfl, rfl, ?_⟩
  rw [BitVec.toNat_ofNat]
  omega

/-- A frame that DATBLD builds is too short for the class COMMAND (R164, R169). -/
theorem otherClass_dataFrame {ext : Bool} {m l : Byte} {p : List Byte} (h : p.length ≤ 8) :
    otherClass (dataFrame ext m l p) = .unknown := by
  rw [otherClass_eq, length_dataFrame, if_neg (by omega)]

/-- An Extended frame fails the validity test by its info byte, an empty one by its length (R165, R170). -/
theorem decodeDataFrame_extended_or_empty {ext : Bool} {m l : Byte} {p : List Byte} (h : p.length ≤ 8)
    (hext : ext = true ∨ p = []) : decodeDataFrame (dataFrame ext m l p) = none := by
  rw [Option.eq_none_iff_forall_ne_some]
  intro d hd
  obtain ⟨hlen, _, info, hinfo, hC⟩ := valid_of_decodeDataFrame hd
  rw [length_dataFrame] at hlen
  obtain rfl | rfl := hext
  · obtain rfl : infoByte true p.length = info := Option.some.inj hinfo
    rw [toNat_infoByte true _ h, if_pos rfl] at hC
    omega
  · simp at hlen

/-- Settles O23: DATBLD builds the frame, which is no data frame and not 20 bytes long. -/
theorem extendedAndEmptyFramesAreUnknown : Obligations.ExtendedAndEmptyFramesAreUnknown := by
  intro s ext m l payload h hlen hext
  refine ⟨dataFrame ext m l payload, exec_datbld s ext m l payload hlen, ?_⟩
  rw [exec_datdec_of_none s (withinBound_of_unbounded h _) (decodeDataFrame_extended_or_empty hlen hext),
    otherClass_dataFrame hlen]
  rfl

end Sys2Proof.Machine
end

section
/-! SUPPORT. Streams given to the assembler: no byte is lost (R139), a cycle ends (R250), and what becomes of the frames
that the builders make (R77, R131, R134). -/

namespace Sys2Proof.Machine

/-! ## Any stream -/

/-- Settles O37, by induction on the stream: a byte is kept in the buffer, or leaves with the buffer in a frame. -/
theorem framesPartitionTheStream : Obligations.FramesPartitionTheStream := by
  intro s xs
  induction xs generalizing s with
  | nil => simp [feed]
  | cons x xs ih =>
    intro noOverflow
    obtain ⟨completed, _⟩ | ⟨incomplete, full, _⟩ | ⟨incomplete, room, _⟩ := execAsmByte_cases x s
    · rw [feed_frame xs completed] at noOverflow ⊢
      have rest := ih _ fun r hr => noOverflow r (List.mem_cons_of_mem _ hr)
      simp only [List.map_cons, List.flatten_cons, List.append_assoc]
      rw [rest]
      simp [frameOf]
    · rw [feed_overflow xs incomplete full] at noOverflow
      exact absurd rfl (noOverflow _ List.mem_cons_self)
    · rw [feed_pending xs incomplete room] at noOverflow ⊢
      have rest := ih _ fun r hr => noOverflow r (List.mem_cons_of_mem _ hr)
      simp only [List.map_cons, List.flatten_cons, List.append_assoc]
      rw [rest]
      simp [frameOf]

/-- Settles O39, by induction on the stream: a byte that is answered PENDING leaves a longer buffer, which the rest of
the stream still fills. -/
theorem cycleEndsWithinMaxLen : Obligations.CycleEndsWithinMaxLen := by
  intro s xs hm
  induction xs generalizing s with
  | nil => exact fun _ h => absurd rfl h
  | cons x xs ih =>
    intro fills _
    obtain ⟨completed, _⟩ | ⟨incomplete, full, _⟩ | ⟨incomplete, room, _⟩ := execAsmByte_cases x s
    · rw [feed_frame xs completed]
      exact ⟨_, List.mem_cons_self, nofun⟩
    · rw [feed_overflow xs incomplete full]
      exact ⟨_, List.mem_cons_self, nofun⟩
    · rw [feed_pending xs incomplete room]
      rw [List.length_cons] at fills
      have more : xs ≠ [] := by
        rintro rfl
        simp at fills
        omega
      obtain ⟨r, hr, status⟩ := ih ((s.setBuf (s.asmBuf ++ [x])).respond .pending .nothing) hm (by simp; omega) more
      exact ⟨r, List.mem_cons_of_mem _ hr, status⟩

/-! ## Frames reassembled -/

/-- Where frames beginning with 0xAA and `c` complete at `n` bytes, nothing shorter that begins such a frame is
complete (R131). -/
theorem incomplete_of_short_prefix {c : Byte} {tail p : List Byte} {n : Nat}
    (rule : ∀ rest, complete (0xAA :: c :: rest) = decide (n ≤ rest.length + 2)) (hp : p <+: 0xAA :: c :: tail)
    (short : p.length < n) : complete p = false := by
  match p with
  | [] => rfl
  | [b0] =>
    obtain ⟨rfl, _⟩ := List.cons_prefix_cons.1 hp
    rfl
  | b0 :: b1 :: p =>
    obtain ⟨rfl, htail⟩ := List.cons_prefix_cons.1 hp
    obtain ⟨rfl, _⟩ := List.cons_prefix_cons.1 htail
    rw [rule, decide_eq_false_iff_not]
    simpa using short

/-- A frame that completes at its last byte and at none before gets PENDING up to there, and is then emitted whole from
an assembler that was empty (R134). -/
theorem feed_reassembled {s : State} {xs : List Byte} {x : Byte} (hb : s.asmBuf = []) (room : xs.length < s.params.maxLen)
    (incomplete : ∀ p, p <+: xs → complete p = false) (completed : complete (xs ++ [x]) = true) :
    (feed s (xs ++ [x])).1 = List.replicate xs.length ⟨.pending, .nothing⟩ ++ [⟨.frame, .frame (xs ++ [x])⟩] ∧
      (feed s (xs ++ [x])).2.asmBuf = [] := by
  have pending : ∀ p q, xs = p ++ q → p ≠ [] → complete (s.asmBuf ++ p) = false := by
    rintro p q rfl _
    rw [hb, List.nil_append]
    exact incomplete p ⟨q, rfl⟩
  obtain ⟨t, hbuf, _, hfeed⟩ := feed_run_pending s xs [x] pending (by simpa [hb] using room)
  rw [hb, List.nil_append] at hbuf
  rw [hfeed, feed_frame [] (by rw [hbuf]; exact completed), hbuf]
  exact ⟨rfl, rfl⟩

/-- A frame of `n` bytes beginning with 0xAA and `c`, where such frames complete at `n` bytes, is reassembled by an
empty assembler with room for it (R131, R134). -/
theorem feed_reassembled_of_rule {s : State} {c : Byte} {tail : List Byte} {n : Nat} (hb : s.asmBuf = [])
    (rule : ∀ rest, complete (0xAA :: c :: rest) = decide (n ≤ rest.length + 2)) (hlen : tail.length + 2 = n)
    (room : n ≤ s.params.maxLen) :
    (feed s (0xAA :: c :: tail)).1 =
      List.replicate (n - 1) ⟨.pending, .nothing⟩ ++ [⟨.frame, .frame (0xAA :: c :: tail)⟩] ∧
      (feed s (0xAA :: c :: tail)).2.asmBuf = [] := by
  have completed : complete (0xAA :: c :: tail) = true := by rw [rule, decide_eq_true_iff, hlen]
  obtain ⟨xs, x, hframe⟩ : ∃ xs x, 0xAA :: c :: tail = xs ++ [x] :=
    ⟨_, _, (List.dropLast_append_getLast (List.cons_ne_nil _ _)).symm⟩
  have hxs : xs.length + 1 = n := by
    have := congrArg List.length hframe
    simp at this
    omega
  have incomplete (p : List Byte) (hp : p <+: xs) : complete p = false := by
    refine incomplete_of_short_prefix (tail := tail) rule (hframe ▸ hp.trans (List.prefix_append xs [x])) ?_
    have := hp.length_le
    omega
  rw [hframe] at completed ⊢
  rw [← hxs, Nat.add_sub_cancel]
  exact feed_reassembled hb (by omega) incomplete completed

/-- Where data frames with this info byte complete (R131). -/
theorem complete_infoByte {n : Nat} (h : n ≤ 8) (rest : List Byte) :
    complete (0xAA :: infoByte false n :: rest) = decide (n + 5 ≤ rest.length + 2) := by
  have info : (infoByte false n).toNat = 0xC0 + n := toNat_infoByte false n h
  have code : (infoByte false n).toNat % 16 = n := by omega
  rw [complete_shortCode rest (by omega) (by omega), code]

/-- Settles O40: the info byte of a Standard frame carries the length at which the assembler completes it. -/
theorem builtDataFrameIsReassembled : Obligations.BuiltDataFrameIsReassembled := by
  intro s m l payload hb hlen room
  refine ⟨_, exec_datbld s false m l payload hlen, ?_⟩
  exact feed_reassembled_of_rule (tail := [l, m] ++ payload ++ [0x55]) hb (complete_infoByte hlen) (by simp) room

/-- Settles O41: the configuration frame has the 20 bytes at which an echo completes, and is COMMAND by that length and
its first two bytes. -/
theorem builtConfigurationFrameIsReassembled : Obligations.BuiltConfigurationFrameIsReassembled := by
  intro s speed ftype mode hb room h
  have noFields : decodeDataFrame (configurationFrame speed ftype mode) = none := by
    rw [Option.eq_none_iff_forall_ne_some]
    intro d hd
    obtain ⟨_, _, r1, hr1, hC⟩ := valid_of_decodeDataFrame hd
    obtain rfl : 0x55 = r1 := Option.some.inj hr1
    simp at hC
  obtain ⟨responses, buffer⟩ := feed_reassembled_of_rule (n := 20)
    (tail := (configurationFrame speed ftype mode).drop 2) hb complete_echo rfl room
  refine ⟨configurationFrame speed ftype mode, rfl, responses, buffer, ?_⟩
  rw [exec_datdec_of_none s (withinBound_of_unbounded h _) noFields]
  rfl

/-! ## Frames split -/

/-- From an empty buffer each byte that is not 0xAA is a frame of its own (R131, R134). -/
theorem feed_strays {s : State} {xs : List Byte} (hb : s.asmBuf = []) (stray : ∀ b ∈ xs, b ≠ 0xAA) :
    (feed s xs).1 = xs.map (fun b => ⟨.frame, .frame [b]⟩) ∧ (feed s xs).2.asmBuf = [] := by
  induction xs generalizing s with
  | nil => exact ⟨rfl, hb⟩
  | cons x xs ih =>
    have completed : complete (s.asmBuf ++ [x]) = true := by
      rw [hb]
      exact complete_stray x [] (stray x List.mem_cons_self)
    obtain ⟨responses, buffer⟩ := ih (s := (s.setBuf []).respond .frame (.frame (s.asmBuf ++ [x]))) rfl
      fun b hmem => stray b (List.mem_cons_of_mem _ hmem)
    rw [feed_frame xs completed]
    exact ⟨by rw [responses, hb]; rfl, buffer⟩

/-- Two bytes that complete a frame leave an empty assembler as they found it (R131, R134). -/
theorem feed_two_bytes {s : State} {b : Byte} (xs : List Byte) (hb : s.asmBuf = []) (room : 2 ≤ s.params.maxLen)
    (completed : complete [0xAA, b] = true) : ∃ t : State, t.asmBuf = [] ∧
      feed s (0xAA :: b :: xs) =
        (⟨.pending, .nothing⟩ :: ⟨.frame, .frame [0xAA, b]⟩ :: (feed t xs).1, (feed t xs).2) := by
  have first : complete (s.asmBuf ++ [0xAA]) = false := by rw [hb]; rfl
  let opened := (s.setBuf (s.asmBuf ++ [0xAA])).respond .pending .nothing
  have buffer : opened.asmBuf ++ [b] = [0xAA, b] := by
    change s.asmBuf ++ [0xAA] ++ [b] = _
    rw [hb]
    rfl
  refine ⟨(opened.setBuf []).respond .frame (.frame (opened.asmBuf ++ [b])), rfl, ?_⟩
  rw [feed_pending _ first (by rw [hb]; exact room), feed_frame (s := opened) xs (by rw [buffer]; exact completed),
    buffer]

/-- Settles O42: the info byte of an Extended frame announces neither an echo nor a data frame, so it completes a frame
of two bytes, and the bytes after it are strays. -/
theorem extendedFrameIsSplit : Obligations.ExtendedFrameIsSplit := by
  intro s m l payload hb room hlen noStart
  have info : (infoByte true payload.length).toNat = 0xE0 + payload.length := toNat_infoByte true _ hlen
  have notEcho : infoByte true payload.length ≠ 0x55 := by
    intro h
    rw [h] at info
    change 0x55 = _ at info
    omega
  have stray : ∀ b ∈ l :: m :: payload ++ [0x55], b ≠ 0xAA := by
    intro b hmem
    obtain hmem | hmem := List.mem_append.1 hmem
    · exact noStart b hmem
    · obtain rfl := List.mem_singleton.1 hmem
      decide
  obtain ⟨t, ht, split⟩ := feed_two_bytes (l :: m :: payload ++ [0x55]) hb room
    (complete_other (infoByte true payload.length) [] notEcho (by omega))
  obtain ⟨responses, buffer⟩ := feed_strays ht stray
  refine ⟨infoByte true payload.length, l :: m :: payload ++ [0x55], ?_, ?_⟩
  · exact exec_datbld s true m l payload hlen
  · rw [split]
    exact ⟨congrArg (_ :: _ :: ·) responses, buffer⟩

end Sys2Proof.Machine
end

section
/-! SUPPORT. Whole iterations of the two loops: an injection iteration from the build to the answered write (R217 to
R219), and a Dump Loop iteration over a data frame that arrives byte by byte (R221 to R224). -/

namespace Sys2Proof.Machine

/-- The block runs the instruction that a host has asked for in its encoded form (R69 to R71, R211). -/
theorem step_of_asked {s : State} {i : Instr} (hm : s.params.maxLen ≠ 0) (hw : s.wasReset = true)
    (hp : s.port = .request (encode i)) : step s = exec i s :=
  step_of_decode hm hw hp (decode_encode i)

/-! ## An injection iteration -/

/-- The build and its answer take two steps to the frame of the mutated payload (R164, R217). -/
theorem runSteps_build (k : Nat) {s : State} {p : List Byte} {e : Environment} (hm : s.params.maxLen ≠ 0)
    (hw : s.wasReset = true) (hp : s.port = .idle) (hphase : s.phase = .injectBuild)
    (hmut : mutate s s.inj.mode s.inj.payload = (p, { s with env := e })) (hlen : p.length ≤ 8) :
    runSteps (k + 2) s = runSteps k { s with
      env := e
      inj := { s.inj with payload := p }
      port := .response ⟨.ok, .frame (dataFrame s.inj.ext s.inj.idMsb s.inj.idLsb p)⟩
      phase := .awaitDataFrame } := by
  rw [runSteps_next _ (step_of_injectBuild hm hp hphase hmut)]
  refine runSteps_next k ?_
  rw [step_of_asked (i := .datbld s.inj.ext s.inj.idMsb s.inj.idLsb p)]
  · exact exec_datbld _ _ _ _ p hlen
  · exact hm
  · exact hw
  · rfl

/-- A frame from DATBLD whose write is answered by a full count is written once, and the loop is at its top (R219,
R220). -/
theorem runSteps_write (k : Nat) {s : State} {f : List Byte} {n : Nat} {more : List WriteResult}
    (hm : s.params.maxLen ≠ 0) (hp : s.port = .response ⟨.ok, .frame f⟩) (hphase : s.phase = .awaitDataFrame)
    (hwrites : s.env.writes = .count n :: more) (hfull : f.length ≤ n) :
    runSteps (k + 1) s = runSteps k { s with
      port := .idle
      env := { s.env with writes := more }
      link := { s.link with writes := s.link.writes ++ [(f, .count n)] }
      phase := .injectTop } := by
  have taken : hostTake ⟨.ok, .frame f⟩ s = some (writeFrame f .injectTop s) := by rw [hostTake, hphase]; rfl
  rw [runSteps_take k _ hm hp taken, writeFrame_scheduled f .injectTop s (.count n) more hwrites,
    wroteWhole_of_full ⟨n, rfl, hfull⟩]
  rfl

/-- Settles O55: the build asks for the incremented payload's frame, DATBLD answers it, and its write is answered by a
full count. -/
theorem injectionIterationWritesOneFrame : Obligations.InjectionIterationWritesOneFrame := by
  intro s n more hm hw hp hphase hmode hlen hwrites hfull
  have mutated : mutate s s.inj.mode s.inj.payload = (s.inj.payload.map (· + 1), { s with env := s.env }) := by
    rw [hmode]
    rfl
  have length : (s.inj.payload.map (· + 1)).length = s.inj.payload.length := List.length_map _
  have written := runSteps_write 0 (s := { s with
      inj := { s.inj with payload := s.inj.payload.map (· + 1) }
      port := .response ⟨.ok, .frame (dataFrame s.inj.ext s.inj.idMsb s.inj.idLsb (s.inj.payload.map (· + 1)))⟩
      phase := .awaitDataFrame }) hm rfl rfl hwrites (by rw [length_dataFrame, length]; exact hfull)
  refine ⟨_, infoByte s.inj.ext s.inj.payload.length,
    (runSteps_build 1 hm hw hp hphase mutated (length ▸ hlen)).trans written, rfl, rfl,
    toNat_infoByte s.inj.ext _ hlen, rfl, ?_⟩
  rw [← length]
  rfl

/-! ## Receiving bytes -/

/-- The state `s` in a reception cycle: at the top of an iteration, with what the buffer holds and what is still
scheduled of reads and signals (R222). -/
def polling (s : State) (buf : List Byte) (reads : List (Option Byte)) (signals : List Bool) : State :=
  { s with
    phase := .receiveTop
    port := .idle
    asmBuf := buf
    env := { s.env with reads := reads, signals := signals } }

section

variable {s : State} (hm : s.params.maxLen ≠ 0) (hw : s.wasReset = true) (hc : s.cancel = false)

include hm hc in
/-- A scheduled byte with no cancellation is forwarded as ASM_BYTE (R222). -/
theorem step_polling (buf : List Byte) (x : Byte) (reads : List (Option Byte)) (signals : List Bool) :
    step (polling s buf (some x :: reads) (false :: signals)) =
      .next ((polling s buf reads signals).call (.asmByte x) .awaitByte) := by
  let top := polling s buf (some x :: reads) (false :: signals)
  have check := top.checkCancel_scheduled false signals rfl
  have flag : top.checkCancel.cancel = false := by rw [check, Bool.or_false]; exact hc
  have read := top.checkCancel.readTransport_scheduled (some x) reads rfl
  rw [step_of_receiveTop (s := top) hm rfl rfl, hostReceiveTop_of_byte flag read, check]
  simp [top, polling, hc, State.call]

include hm hw in
/-- A forwarded byte is served by ASM_BYTE (R134). -/
theorem step_byte_forwarded (buf : List Byte) (x : Byte) (reads : List (Option Byte)) (signals : List Bool) :
    step ((polling s buf reads signals).call (.asmByte x) .awaitByte) =
      .next { polling s (asmByteResult x s.params buf).2 reads signals with
        port := .response (asmByteResult x s.params buf).1
        phase := .awaitByte } :=
  (step_of_asked (s := (polling s buf reads signals).call (.asmByte x) .awaitByte) hm hw rfl).trans
    (exec_asmByte_eq x _)

include hm hw hc in
/-- A byte that is answered PENDING takes three steps to the next iteration (R222). -/
theorem runSteps_polling_pending (k : Nat) {buf : List Byte} {x : Byte} (reads : List (Option Byte))
    (signals : List Bool) (incomplete : complete (buf ++ [x]) = false) (room : buf.length + 1 < s.params.maxLen) :
    runSteps (k + 3) (polling s buf (some x :: reads) (false :: signals)) =
      runSteps k (polling s (buf ++ [x]) reads signals) := by
  have result : asmByteResult x s.params buf = (⟨.pending, .nothing⟩, buf ++ [x]) := by
    rw [asmByteResult, if_neg (by simp [incomplete]), if_neg (by simpa using room)]
  have served := step_byte_forwarded hm hw buf x reads signals
  rw [result] at served
  rw [runSteps_next _ (step_polling hm hc buf x reads signals), runSteps_next _ served]
  exact runSteps_next k (step_of_awaitByte hm rfl rfl rfl)

include hm hw hc in
/-- A run of bytes that leave every buffer on the way incomplete and below `MAX_LEN` is taken up into the buffer, three
steps for each byte (R222). -/
theorem runSteps_polling_run (k : Nat) (xs buf : List Byte) (reads : List (Option Byte)) (signals : List Bool)
    (incomplete : ∀ p, p <+: xs → p ≠ [] → complete (buf ++ p) = false)
    (room : buf.length + xs.length < s.params.maxLen) :
    runSteps (k + 3 * xs.length) (polling s buf (xs.map some ++ reads) (List.replicate xs.length false ++ signals)) =
      runSteps k (polling s (buf ++ xs) reads signals) := by
  induction xs generalizing buf with
  | nil => rw [List.append_nil]; rfl
  | cons x xs ih =>
    rw [List.length_cons] at room
    have first : complete (buf ++ [x]) = false := incomplete [x] (List.prefix_append [x] xs) (List.cons_ne_nil _ _)
    have rest := ih (buf ++ [x]) (fun p hp _ => by
      rw [List.append_assoc]
      exact incomplete (x :: p) (List.cons_prefix_cons.2 ⟨rfl, hp⟩) (List.cons_ne_nil _ _)) (by simp; omega)
    rw [List.append_assoc] at rest
    exact (runSteps_polling_pending hm hw hc (k + 3 * xs.length) _ _ first (by omega)).trans rest

include hm hw hc in
/-- A byte that completes a frame takes three steps to the frame's DATDEC, stamped (R221). -/
theorem runSteps_polling_frame (k : Nat) {buf : List Byte} {x : Byte} (reads : List (Option Byte))
    (signals : List Bool) {tau : Nat} {more : List Nat} (completed : complete (buf ++ [x]) = true)
    (hstamps : s.env.stamps = tau :: more) :
    runSteps (k + 3) (polling s buf (some x :: reads) (false :: signals)) = runSteps k { s with
      phase := .awaitDecoded (buf ++ [x]) tau
      port := .request (encode (.datdec (buf ++ [x])))
      asmBuf := []
      env := { s.env with reads := reads, signals := signals, stamps := more } } := by
  have result : asmByteResult x s.params buf = (⟨.frame, .frame (buf ++ [x])⟩, []) := by
    rw [asmByteResult, if_pos completed]
  have served := step_byte_forwarded hm hw buf x reads signals
  rw [result] at served
  rw [runSteps_next _ (step_polling hm hc buf x reads signals), runSteps_next _ served]
  exact runSteps_next k (step_of_awaitByte hm rfl rfl (takeByte_of_frame hstamps))

end

/-! ## A Dump Loop iteration -/

/-- DATDEC of a frame with fields takes two steps, to the record of its data frame and the loop's top (R223, R224). -/
theorem runSteps_decoded {s : State} {raw : List Byte} {tau : Nat} {d : DataFields} (hm : s.params.maxLen ≠ 0)
    (hw : s.wasReset = true) (hseq : s.params.seqMax = none) (hphase : s.phase = .awaitDecoded raw tau)
    (hp : s.port = .request (encode (.datdec raw))) (hd : decodeDataFrame raw = some d) :
    runSteps 2 s = .next { s with
      port := .idle
      phase := .dumpTop
      dump := { s.dump with count := s.dump.count + 1 }
      seen := s.seen ++ [.dataFrame tau d.cls d.id d.disp] } := by
  have served : step s = .next (s.respond .ok (.decoded d)) :=
    (step_of_asked hm hw hp).trans (exec_datdec_of_some s (withinBound_of_unbounded hseq raw) hd)
  rw [runSteps_next 1 served]
  exact runSteps_next 0 (step_of_awaitDecoded hm hphase rfl rfl)

/-- With no cancellation and no limit reached, the loop's top leads into a reception cycle (R221). -/
theorem step_dumpTop_polling {s : State} {signals : List Bool} (hm : s.params.maxLen ≠ 0) (hp : s.port = .idle)
    (hphase : s.phase = .dumpTop) (hc : s.cancel = false) (hlimit : limitReached s.dump = false)
    (hsigs : s.env.signals = false :: signals) :
    step s = .next (polling s s.asmBuf s.env.reads signals) := by
  have check := s.checkCancel_scheduled false signals hsigs
  rw [step_of_dumpTop hm hp hphase, hostDumpTop_of_room (by rw [check, hc]; rfl) hlimit, check]
  simp [polling, State.goTo, hc, hp]

/-- One iteration of the Dump Loop on any frame that the assembler completes at its last byte and at none before, and
that DATDEC decodes (R203, R221 to R224). -/
theorem runSteps_dump_iteration {s : State} {start : List Byte} {e : Byte} {d : DataFields} {tau : Nat}
    {more : List Nat} {reads : List (Option Byte)} {sigs : List Bool} (hm : s.params.maxLen ≠ 0)
    (hw : s.wasReset = true) (hp : s.port = .idle) (hphase : s.phase = .dumpTop) (hb : s.asmBuf = [])
    (hc : s.cancel = false) (hseq : s.params.seqMax = none) (hlimit : limitReached s.dump = false)
    (incomplete : ∀ p, p <+: start → complete p = false) (completed : complete (start ++ [e]) = true)
    (room : start.length < s.params.maxLen) (fields : decodeDataFrame (start ++ [e]) = some d)
    (hreads : s.env.reads = (start ++ [e]).map some ++ reads)
    (hsigs : s.env.signals = List.replicate (start.length + 2) false ++ sigs) (hstamps : s.env.stamps = tau :: more) :
    runSteps (1 + 3 * (start.length + 1) + 2) s = .next { s with
      dump := { s.dump with count := s.dump.count + 1 }
      seen := s.seen ++ [.dataFrame tau d.cls d.id d.disp]
      env := { s.env with reads := reads, signals := sigs, stamps := more } } := by
  have signals : s.env.signals = false :: (List.replicate start.length false ++ false :: sigs) := by
    rw [hsigs, List.replicate_succ, List.replicate_succ']
    simp
  have scheduled : s.env.reads = start.map some ++ some e :: reads := by simp [hreads]
  have top := step_dumpTop_polling hm hp hphase hc hlimit signals
  rw [hb, scheduled] at top
  have count : 1 + 3 * (start.length + 1) + 2 = 2 + 3 + 3 * start.length + 1 := by omega
  rw [count, runSteps_next _ top, runSteps_polling_run hm hw hc (2 + 3) start [] _ _ (fun p hprefix _ =>
    incomplete p hprefix) (by simpa using room), List.nil_append,
    runSteps_polling_frame hm hw hc 2 reads sigs completed hstamps, runSteps_decoded _ _ _ rfl rfl fields, hb, hp,
    hphase]
  · exact hm
  · exact hw
  · exact hseq

/-- Settles O60: no proper prefix of a data frame is complete, so its bytes are taken up one by one; the last completes
it, and DATDEC's fields are recorded. -/
theorem dumpDeliversDataFrame : Obligations.DumpDeliversDataFrame := by
  intro s c r2 r3 e mid tau more reads sigs hw hp hphase hb hc hseq room hC hcode hlow hhigh hlimit hreads hsigs hstamps
  have length : ([0xAA, c, r2, r3] ++ mid).length = mid.length + 4 := by simp
  have rule (rest : List Byte) : complete (0xAA :: c :: rest) = decide (mid.length + 5 ≤ rest.length + 2) := by
    rw [complete_shortCode rest hC (by omega), hcode]
  have incomplete (p : List Byte) (hprefix : p <+: [0xAA, c, r2, r3] ++ mid) : complete p = false :=
    incomplete_of_short_prefix (tail := r2 :: r3 :: mid) rule hprefix (by have := hprefix.length_le; omega)
  have completed : complete ([0xAA, c, r2, r3] ++ mid ++ [e]) = true := by
    refine (rule ([r2, r3] ++ mid ++ [e])).trans ?_
    simp
  have below : limitReached s.dump = false := Bool.eq_false_of_not_eq_true fun reached => by
    obtain ⟨l, hl, hle⟩ := (limitReached_iff s.dump).1 reached
    have := hlimit l hl
    omega
  have iteration := runSteps_dump_iteration (sigs := sigs) (by omega) hw hp hphase hb hc hseq below incomplete completed
    (by omega) (decodeDataFrame_of_parts hC (List.ne_nil_of_length_pos hlow)) hreads (length ▸ hsigs) hstamps
  rwa [length] at iteration

end Sys2Proof.Machine
end
